-- ==== Sys2Proof/Word.lean ====
section
/-! DEFINITION. The plain data of LMD: command words, bytes, pin levels, pixels, the frame reader's pointer and the
lane masks of the two engine pools (00_scope.md R6; 10_state.md R11, R17, R21; 42_transport.md R71). -/

namespace Sys2Proof

/-- A command word (30_encoding.md R47). -/
abbrev Word := BitVec 32

/-- A colour channel, and one entry of the transmit queue (10_state.md R11, R18). -/
abbrev Byte := BitVec 8

/-- The level of an output pin: LOW = 0, HIGH = 1 (10_state.md R19, R21). -/
inductive Level where
  | low
  | high
  deriving DecidableEq, Repr, Inhabited

/-- One element of the frame buffer, written (r, g, b) whatever the order on the wire (00_scope.md R6, 10_state.md R11). -/
structure Pixel where
  r : Byte
  g : Byte
  b : Byte
  deriving DecidableEq, Repr, Inhabited

/-- The channel phase `ch` of SCAN: 0 = green, 1 = red, 2 = blue (10_state.md R17). -/
inductive Phase where
  | green
  | red
  | blue
  deriving DecidableEq, Repr, Inhabited

/-- `SCAN = (i, ch)`, the frame reader's pointer, holding its legal values only (10_state.md R17; log 17). -/
structure Scan where
  i : Fin 25
  ch : Phase
  deriving DecidableEq, Repr, Inhabited

/-- The input `pool_free`: bit `l` of a mask says that lane `l` of that pool is free (00_scope.md R5; log 9). -/
structure Pools where
  primary : BitVec 4
  secondary : BitVec 4
  deriving DecidableEq, Repr, Inhabited

end Sys2Proof
end

