-- ==== Sys2Proof/Syntax.lean ====
section
/-! DEFINITION. The seven commands of LMD (30_encoding.md R49), the moves by which its agents and its environment take
their steps (00_scope.md R8), and the lines of the assembler (30_encoding.md R54). -/

namespace Sys2Proof

/-- One constructor per row of spec/opcode_table.json. Every operand is an unsigned immediate field of the command word
at its own width (30_encoding.md R48, R50), so an operand that does not fit its field cannot be written. -/
inductive Instr where
  /-- `INIT pin` (42_transport.md R70). -/
  | init (pin : BitVec 8)
  /-- `SET idx, r, g, b` (41_pixelbuffer.md R65). -/
  | set (idx : BitVec 5) (r g b : Byte)
  /-- `GET idx` (41_pixelbuffer.md R66). -/
  | get (idx : BitVec 5)
  /-- `CLEAR` (41_pixelbuffer.md R67). -/
  | clear
  /-- `WRITE` (42_transport.md R72). -/
  | write
  /-- `MAP row, col` (40_mapper.md R60). -/
  | map (row col : BitVec 8)
  /-- `BSTART` (43_status_blinker.md R85). -/
  | bstart
  deriving DecidableEq, Repr

/-- One atomic step of one agent (00_scope.md R8), or one act of the host and the environment `H`
(70_reset_and_hazards.md R134). -/
inductive Move where
  /-- `A`: EXEC of the command the host offers. -/
  | exec
  /-- `A`: SUBMIT of one byte of a flush (42_transport.md R73). -/
  | submit
  /-- `E`: EMIT of one byte (42_transport.md R74). -/
  | emit
  /-- `E`: LATCH of one frame (42_transport.md R75). -/
  | latch
  /-- `B`: TOGGLE (43_status_blinker.md R86). -/
  | toggle
  /-- `H`: the host adds a word to the end of its command stream. -/
  | offer (w : Word)
  /-- `H`: the host asserts `rst` (70_reset_and_hazards.md R120). -/
  | rst
  /-- `H`: the predicate STALL becomes true (42_transport.md R77). -/
  | stall
  /-- `H`: the input `pool_free` takes a new value (10_state.md R23). -/
  | setPoolFree (p : Pools)
  deriving DecidableEq, Repr, Inhabited

/-- One line of the assembler, operands as the unbounded numerals a programmer writes (30_encoding.md R54). -/
inductive AsmLine where
  | init (pin : Nat)
  | set (idx r g b : Nat)
  | get (idx : Nat)
  | clear
  | write
  | map (row col : Nat)
  | bstart
  /-- `.word w`, for writing illegal commands in tests. -/
  | word (w : Nat)
  deriving DecidableEq, Repr

end Sys2Proof
end

