-- ==== Sys2Proof/WellFormed.lean ====
section
/-! DEFINITION. What is well formed: a command word with no reserved bit set (30_encoding.md R51, R52), and an assembler
line whose operands fit their fields (30_encoding.md R54). An `Instr` needs no check of its own: each operand has its
field's width in its type, and an operand that is out of range but fits (SET 25, MAP 5, 0) is a legal encoding that faults
when executed (60_exceptions.md R102). -/

namespace Sys2Proof

/-- The reserved bits of the format of each opcode: INIT 28:8; GET 23:0; CLEAR, WRITE and BSTART 28:0; MAP 28:16; SET none
(30_encoding.md R51). Opcode 000 is no command (R52), so its entry is the whole of bits 28:0. -/
def reservedBits (op : BitVec 3) : Word :=
  if op = 0b001#3 then 0x1FFFFF00#32
  else if op = 0b010#3 then 0#32
  else if op = 0b011#3 then 0x00FFFFFF#32
  else if op = 0b110#3 then 0x1FFF0000#32
  else 0x1FFFFFFF#32

/-- A command word is well formed when its opcode is not 000 and no reserved bit of its format is 1
(30_encoding.md R51, R52). -/
def wordWf (w : Word) : Bool :=
  decide (w.extractLsb' 29 3 ≠ 0b000#3) && decide (w &&& reservedBits (w.extractLsb' 29 3) = 0#32)

/-- The assembler "refuses an operand that does not fit its field" (30_encoding.md R54). -/
def AsmLine.wf : AsmLine → Bool
  | .init pin => decide (pin < 256)
  | .set idx r g b => decide (idx < 32) && decide (r < 256) && decide (g < 256) && decide (b < 256)
  | .get idx => decide (idx < 32)
  | .clear => true
  | .write => true
  | .map row col => decide (row < 256) && decide (col < 256)
  | .bstart => true
  | .word w => decide (w < 2 ^ 32)

end Sys2Proof
end

