-- ==== Sys2Proof/Decode.lean ====
section
/-! DEFINITION. Decoding a command word (30_encoding.md R47 to R53, R57), the encoder (R48, R54), the opcode table of R49 as
rows of match and mask, and the assembler (R54). -/

namespace Sys2Proof

/-- Why a word is no command: opcode 000 (30_encoding.md R52), or a reserved bit that is 1 (R51). -/
inductive IllegalWord where
  | reservedOpcode
  | reservedBit
  deriving DecidableEq, Repr

/-- `w[lo+len-1 : lo]` (00_scope.md R6). -/
def bits (w : Word) (lo len : Nat) : BitVec len := w.extractLsb' lo len

/-- Decoding reads the word alone and is total: a command with its operands, or an illegal word by name
(30_encoding.md R48, R50, R57). -/
def decode (w : Word) : Except IllegalWord Instr :=
  let op := bits w 29 3
  if op = 0b001#3 then
    if bits w 8 21 = 0 then .ok (.init (bits w 0 8)) else .error .reservedBit
  else if op = 0b010#3 then
    .ok (.set (bits w 24 5) (bits w 16 8) (bits w 8 8) (bits w 0 8))
  else if op = 0b011#3 then
    if bits w 0 24 = 0 then .ok (.get (bits w 24 5)) else .error .reservedBit
  else if op = 0b100#3 then
    if bits w 0 29 = 0 then .ok .clear else .error .reservedBit
  else if op = 0b101#3 then
    if bits w 0 29 = 0 then .ok .write else .error .reservedBit
  else if op = 0b110#3 then
    if bits w 16 13 = 0 then .ok (.map (bits w 8 8) (bits w 0 8)) else .error .reservedBit
  else if op = 0b111#3 then
    if bits w 0 29 = 0 then .ok .bstart else .error .reservedBit
  else .error .reservedOpcode

/-- The word of a command, laid out by the five formats of 30_encoding.md R48. -/
def encode : Instr → Word
  | .init pin => 0b001#3 ++ 0#21 ++ pin
  | .set idx r g b => 0b010#3 ++ idx ++ r ++ g ++ b
  | .get idx => 0b011#3 ++ idx ++ 0#24
  | .clear => 0b100#3 ++ 0#29
  | .write => 0b101#3 ++ 0#29
  | .map row col => 0b110#3 ++ 0#13 ++ row ++ col
  | .bstart => 0b111#3 ++ 0#29

/-- The instruction read from a word whose bits are given as spec/opcode_table.json numbers them; every command is one
32-bit word (30_encoding.md R47), so every bit above `nbits` is 0. -/
def decodeTableWord (nbits w : Nat) : Option Instr :=
  match decode (BitVec.ofNat 32 (w % 2 ^ nbits)) with
  | .ok i => some i
  | .error _ => none

/-- A row of the opcode map (30_encoding.md R49). -/
structure OpRow where
  mnemonic : String
  pattern : Word
  mask : Word
  deriving DecidableEq, Repr

/-- `w & mask = match` (30_encoding.md R49). -/
def OpRow.selects (row : OpRow) (w : Word) : Bool := decide (w &&& row.mask = row.pattern)

/-- The opcode map, row by row, as 30_encoding.md R49 prints it. -/
def opcodeMap : List OpRow :=
  [ ⟨"INIT", 0x20000000#32, 0xFFFFFF00#32⟩,
    ⟨"SET", 0x40000000#32, 0xE0000000#32⟩,
    ⟨"GET", 0x60000000#32, 0xE0FFFFFF#32⟩,
    ⟨"CLEAR", 0x80000000#32, 0xFFFFFFFF#32⟩,
    ⟨"WRITE", 0xA0000000#32, 0xFFFFFFFF#32⟩,
    ⟨"MAP", 0xC0000000#32, 0xFFFF0000#32⟩,
    ⟨"BSTART", 0xE0000000#32, 0xFFFFFFFF#32⟩ ]

/-- The mnemonic of a command (30_encoding.md R49). -/
def Instr.mnemonic : Instr → String
  | .init _ => "INIT"
  | .set _ _ _ _ => "SET"
  | .get _ => "GET"
  | .clear => "CLEAR"
  | .write => "WRITE"
  | .map _ _ => "MAP"
  | .bstart => "BSTART"

/-- The sum a line "encodes as" in 30_encoding.md R54. -/
def AsmLine.value : AsmLine → Nat
  | .init pin => 0x20000000 + pin
  | .set idx r g b => 0x40000000 + idx * 2 ^ 24 + r * 2 ^ 16 + g * 2 ^ 8 + b
  | .get idx => 0x60000000 + idx * 2 ^ 24
  | .clear => 0x80000000
  | .write => 0xA0000000
  | .map row col => 0xC0000000 + row * 2 ^ 8 + col
  | .bstart => 0xE0000000
  | .word w => w

/-- Assembling one line: its word, or a refusal when an operand does not fit its field (30_encoding.md R54). -/
def assemble (line : AsmLine) : Option Word :=
  if line.wf then some (BitVec.ofNat 32 line.value) else none

end Sys2Proof
end

