-- ==== Sys2Proof/Config.lean ====
section
/-! DEFINITION. The parameters of LMD (00_scope.md R5) and the free values. Source values are definitions; an OPEN
parameter or a free value is an opaque constant without a body, so nothing can be proved that rests on its value. -/

namespace Sys2Proof

/-- `BIT_ORDER`: which bit of a byte is first on the wire (20_memory.md R36). -/
inductive BitOrder where
  | msbFirst
  | lsbFirst
  deriving DecidableEq, Repr, Inhabited

/-- A value for each field that 10_state.md R28 leaves `unspecified` after reset, FB apart (93 V2 to V7). -/
structure Unspecified where
  pool : BitVec 1
  lane : BitVec 2
  pin : Byte
  cmd : Word
  res : BitVec 24
  scan : Scan
  dout : Level
  blkLevel : Level
  stat : Level
  deriving DecidableEq, Repr, Inhabited

/-- `S`, the side of the matrix (00_scope.md R5). -/
def Config.side : Nat := 5

/-- `N = S × S`, the number of elements of the frame buffer (00_scope.md R5). -/
def Config.elements : Nat := 25

/-- `T_HALF` in milliseconds, the time STAT holds each level: timing, no rule depends on it (00_scope.md R5, R9). -/
def Config.tHalfMillis : Nat := 200

/-- `FRAME_BYTES = 3 × N` (00_scope.md R5). -/
def Config.frameBytes : Nat := 75

/-- `LANES - 1`, OPEN (00_scope.md R5; log 8). -/
opaque Config.lanesLessOne : Fin 4

/-- `LANES`, between 1 and 4 and otherwise OPEN (00_scope.md R5; log 8). -/
def Config.lanes : Nat := Config.lanesLessOne.val + 1

/-- `TXQ_DEPTH - 1`, OPEN (00_scope.md R5; log 8). -/
opaque Config.txqDepthLessOne : Nat

/-- `TXQ_DEPTH`, at least 1 and otherwise OPEN (00_scope.md R5; log 8). -/
def Config.txqDepth : Nat := Config.txqDepthLessOne + 1

/-- `BIT_ORDER`, OPEN (20_memory.md R36; log 8). -/
opaque Config.bitOrder : BitOrder

/-- `pick_lane`: the draw among the free lanes, fresh at each use (42_transport.md R71, 93 V8; log 10). -/
opaque Config.pickLane : Nat → Nat

/-- The move taken when no move is placed: any agent with an enabled step may take it at any time
(00_scope.md R8, 93 V9; log 1). -/
opaque Config.freeMove : Nat → Move

/-- What the fields that a reset leaves `unspecified` hold after an assertion of `rst` (93 V2 to V7; log 7). -/
opaque Config.unspecified : Nat → Unspecified

/-- The symbol times in a common unit, OPEN but for what 42_transport.md R76 says of them: the 0 symbol has the short
pulse, both symbols last 1 / F_SYM (log 11). `shortHigh` less one, the lengthening of the long pulse less one, and
`longLow` less one. -/
opaque Config.shortHighLessOne : Nat
/-- See `Config.shortHighLessOne`. -/
opaque Config.pulseGapLessOne : Nat
/-- See `Config.shortHighLessOne`. -/
opaque Config.longLowLessOne : Nat
/-- `T_RESET` less one, in the same unit, OPEN (00_scope.md R5; log 11). -/
opaque Config.resetTimeLessOne : Nat

/-- `T0H`, the short pulse (42_transport.md R76). -/
def Config.t0h : Nat := Config.shortHighLessOne + 1
/-- `T1H`, the long pulse (42_transport.md R76). -/
def Config.t1h : Nat := Config.t0h + (Config.pulseGapLessOne + 1)
/-- `T1L` (42_transport.md R76). -/
def Config.t1l : Nat := Config.longLowLessOne + 1
/-- `T0L` (42_transport.md R76). -/
def Config.t0l : Nat := Config.t1l + (Config.pulseGapLessOne + 1)
/-- `T_RESET`, the least low time between two frames (42_transport.md R75). -/
def Config.tReset : Nat := Config.resetTimeLessOne + 1

end Sys2Proof
end

