-- ==== Sys2Proof/Machine/State.lean ====
section
/-! DEFINITION. The state of LMD (10_state.md R10), the model's own inputs beside it, the reasons a step can stop, and the
state after reset (10_state.md R28). -/

namespace Sys2Proof.Machine

/-- Why the MODEL stops; LMD's own faults are recorded in FAULT and are next states (60_exceptions.md R106). -/
inductive Fault where
  /-- Raised by GET and SUBMIT on an element of FB that holds no value. Safe: the spec calls the contents unspecified until
  INIT, which writes every element, and both faults or waits before that (10_state.md R28, 93 V1; log 5). -/
  | unwrittenElement (index : Nat)
  deriving DecidableEq, Repr

/-- Why the model gives no meaning. -/
inductive Refusal where
  /-- Raised by exec for an instruction without a meaning; safe. No arm of this model raises it. -/
  | notModelled (mnemonic : String)
  deriving DecidableEq, Repr

/-- The error classes and sub-causes LMD records (60_exceptions.md R100, R102). HardwareStall is a stuck state and is
never recorded (R103). -/
inductive LmdError where
  /-- ResourceExhaustion: no lane is free in either pool (R101). -/
  | resourceExhaustion
  /-- ContractViolation sub-cause 1. -/
  | indexOutOfRange
  /-- ContractViolation sub-cause 2. -/
  | coordinateOutOfRange
  /-- ContractViolation sub-cause 3. -/
  | secondInit
  /-- ContractViolation sub-cause 4. -/
  | usedBeforeInit
  /-- ContractViolation sub-cause 5. -/
  | illegalCommand
  deriving DecidableEq, Repr

/-- `CMDST`, the sequencing state of agent A (10_state.md R17). -/
inductive CmdState where
  | idle
  | flushing
  | halted
  deriving DecidableEq, Repr

/-- `HANDLE`, the source's TransportHandle (10_state.md R14). -/
structure Handle where
  valid : Bool
  pool : BitVec 1
  lane : BitVec 2
  pin : Byte
  deriving DecidableEq, Repr

/-- `FAULT`, the record of the one fault (10_state.md R15). -/
structure FaultRecord where
  valid : Bool
  cause : BitVec 2
  sub : BitVec 3
  cmd : Word
  deriving DecidableEq, Repr

/-- An event of `WIRE`: a byte sent as 8 symbols, or an inter-frame low period (10_state.md R20). -/
inductive WireEvent where
  | byte (b : Byte)
  | rst
  deriving DecidableEq, Repr

/-- The frame buffer's storage: (element index, element) pairs in one canonical form, indices strictly rising and below
25. The element is the smallest addressable unit (20_memory.md R30, R32). An index that is not listed holds no value
(10_state.md R28; log 5). -/
abbrev Memory := List (Nat × Pixel)

/-- The inputs of the step relation (10_state.md R24) and the response port, held beside the state so that the step is one
function of plain data. None of it is LMD's own state. -/
structure Env where
  /-- The host's command stream: the words still to be issued, the head one offered on `cmd_word` (log 3, log 4). -/
  cmds : List Word
  /-- The response of the command last issued, if it returned one (30_encoding.md R56; log 13). -/
  rsp : Option (BitVec 24)
  /-- The moves placed to be taken next, the head first (log 1). -/
  moves : List Move
  /-- The input `pool_free` (00_scope.md R5; log 9). -/
  poolFree : Pools
  /-- The predicate STALL (42_transport.md R77; log 14). -/
  stall : Bool
  /-- How many free values have been drawn (log 1, log 7, log 10). -/
  draws : Nat
  deriving DecidableEq, Repr

/-- The complete state of LMD, field by field as 10_state.md R10 lists it, and the model's own `env`. -/
structure State where
  /-- `FB[0..24]` (R12). -/
  fb : Memory
  /-- `HANDLE` (R14). -/
  handle : Handle
  /-- `FAULT` (R15). -/
  fault : FaultRecord
  /-- `RES`, the result register (R16). -/
  res : BitVec 24
  /-- `CMDST` (R17). -/
  cmdst : CmdState
  /-- `SCAN` (R17). -/
  scan : Scan
  /-- `TXQ`, the head first (R18). -/
  txq : List Byte
  /-- `ENG.cnt` (R19). -/
  engCnt : Nat
  /-- `DOUT` (R19). -/
  dout : Level
  /-- `BLK.started` (R21). -/
  blkStarted : Bool
  /-- `BLK.level` (R21). -/
  blkLevel : Level
  /-- `STAT` (R21). -/
  stat : Level
  /-- `WIRE`, oldest event first (R20). -/
  wire : List WireEvent
  /-- `STATLOG`, oldest level first (R21). -/
  statlog : List Level
  /-- The model's own inputs and response port. -/
  env : Env
  deriving DecidableEq, Repr

/-- The reset table of 10_state.md R28, with `u` in the fields it leaves unspecified. -/
def State.resetWith (u : Unspecified) (e : Env) : State where
  fb := []
  handle := ⟨false, u.pool, u.lane, u.pin⟩
  fault := ⟨false, 0, 0, u.cmd⟩
  res := u.res
  cmdst := .idle
  scan := u.scan
  txq := []
  engCnt := 0
  dout := u.dout
  blkStarted := false
  blkLevel := u.blkLevel
  stat := u.stat
  wire := []
  statlog := []
  env := e

/-- DESIGN CHOICE, unsafe: what the unspecified fields hold in `State.reset`, all zero (log 6). -/
def Unspecified.zero : Unspecified :=
  ⟨0, 0, 0, 0, 0, ⟨0, .green⟩, .low, .low, .low⟩

/-- The inputs before anything has happened: no command, no placed move, every lane free, no stall
(00_scope.md R5 defaults; log 3, log 9, log 14). -/
def Env.initial : Env := ⟨[], none, [], ⟨0xF#4, 0xF#4⟩, false, 0⟩

/-- The machine right after reset (10_state.md R28). -/
def State.reset : State := State.resetWith Unspecified.zero Env.initial

end Sys2Proof.Machine
end

