-- ==== Sys2Proof/Machine/Ops.lean ====
section
/-! DEFINITION. The named operations over LMD's state: one update per field, the frame buffer, pixels and levels, taking a
fault (60_exceptions.md R106; there is no return from one, R108), and the start of a flush. -/

namespace Sys2Proof.Machine

/-! One update per field of State. -/

def State.setFb (v : Memory) (s : State) : State := { s with fb := v }
def State.setHandle (v : Handle) (s : State) : State := { s with handle := v }
def State.setFault (v : FaultRecord) (s : State) : State := { s with fault := v }
def State.setRes (v : BitVec 24) (s : State) : State := { s with res := v }
def State.setCmdst (v : CmdState) (s : State) : State := { s with cmdst := v }
def State.setScan (v : Scan) (s : State) : State := { s with scan := v }
def State.setTxq (v : List Byte) (s : State) : State := { s with txq := v }
def State.setEngCnt (v : Nat) (s : State) : State := { s with engCnt := v }
def State.setDout (v : Level) (s : State) : State := { s with dout := v }
def State.setBlkStarted (v : Bool) (s : State) : State := { s with blkStarted := v }
def State.setBlkLevel (v : Level) (s : State) : State := { s with blkLevel := v }
def State.setStat (v : Level) (s : State) : State := { s with stat := v }
def State.setWire (v : List WireEvent) (s : State) : State := { s with wire := v }
def State.setStatlog (v : List Level) (s : State) : State := { s with statlog := v }
def State.setEnv (v : Env) (s : State) : State := { s with env := v }

/-! The frame buffer (20_memory.md R30, R32). -/

/-- `FB[i]`: the element at index `i`, or no value where nothing has been written since reset (93 V1). -/
def Memory.read : Memory → Nat → Option Pixel
  | [], _ => none
  | (k, p) :: m, i => if k = i then some p else Memory.read m i

/-- `FB[i] <- p`: one whole element, and no other (20_memory.md R32). -/
def Memory.write : Memory → Nat → Pixel → Memory
  | [], i, p => [(i, p)]
  | (k, q) :: m, i, p =>
    if i < k then (i, p) :: (k, q) :: m
    else if k = i then (i, p) :: m
    else (k, q) :: Memory.write m i p

/-- The canonical form: indices strictly rising, each below 25. No entry can equal what an unlisted index reads as, since
that is no value. -/
abbrev Memory.wf (m : Memory) : Prop :=
  (m.map Prod.fst).Pairwise (· < ·) ∧ ∀ e ∈ m, e.1 < Config.elements

/-- (0, 0, 0). -/
def black : Pixel := ⟨0, 0, 0⟩

/-- `for i in 0 .. 24: FB[i] <- (0, 0, 0)` (41_pixelbuffer.md R67, 42_transport.md R70). -/
def Memory.zeroed : Memory := (List.range Config.elements).map fun i => (i, black)

/-- `{r, g, b}`, r in bits 23:16, g in 15:8, b in 7:0 (10_state.md R16, 20_memory.md R37). -/
def packPixel (p : Pixel) : BitVec 24 := p.r ++ p.g ++ p.b

/-- The channel of a pixel that phase `ch` of a flush sends (42_transport.md R73). -/
def channelOf (p : Pixel) : Phase → Byte
  | .green => p.g
  | .red => p.r
  | .blue => p.b

/-- The three bytes of an element on the wire: green, red, blue (20_memory.md R35). -/
def wireBytesOf (p : Pixel) : List Byte := [p.g, p.r, p.b]

/-- `frame(FB)`: the channel bytes of every element in buffer order (42_transport.md R72). -/
def frameOf (m : Memory) : List Byte :=
  (List.range Config.elements).flatMap fun i => ((Memory.read m i).map wireBytesOf).getD []

/-! Levels (10_state.md R21). -/

/-- The level as a bit: LOW = 0, HIGH = 1. -/
def levelBit : Level → BitVec 1
  | .low => 0
  | .high => 1

/-- `1 - level` (43_status_blinker.md R86). -/
def flipLevel : Level → Level
  | .low => .high
  | .high => .low

/-! Taking a fault. -/

/-- `FAULT.cause` of an error (60_exceptions.md R100). -/
def LmdError.cause : LmdError → BitVec 2
  | .resourceExhaustion => 1
  | .indexOutOfRange => 2
  | .coordinateOutOfRange => 2
  | .secondInit => 2
  | .usedBeforeInit => 2
  | .illegalCommand => 2

/-- `FAULT.sub` of an error (60_exceptions.md R101, R102). -/
def LmdError.sub : LmdError → BitVec 3
  | .resourceExhaustion => 0
  | .indexOutOfRange => 1
  | .coordinateOutOfRange => 2
  | .secondInit => 3
  | .usedBeforeInit => 4
  | .illegalCommand => 5

/-- `raise <Class>(sub), executing command word w`: FAULT is written, agent A halts, nothing else changes
(60_exceptions.md R106). -/
def raise (e : LmdError) (w : Word) (s : State) : State :=
  (s.setFault ⟨true, e.cause, e.sub, w⟩).setCmdst .halted

/-- `raise`, as the outcome of a command; the word executed is the command's encoding (30_encoding.md R57; log 20). -/
def raiseNext (e : LmdError) (i : Instr) (s : State) : Host.Outcome State Fault Refusal :=
  .next (raise e (encode i) s)

/-- `RES <- v ; respond RES` (00_scope.md R7, 30_encoding.md R56). -/
def respond (v : BitVec 24) (s : State) : State :=
  (s.setRes v).setEnv { s.env with rsp := some v }

/-- `CMDST <- Flushing ; SCAN <- (0, 0)` (42_transport.md R72, 41_pixelbuffer.md R67). -/
def beginFlush (s : State) : State :=
  (s.setCmdst .flushing).setScan ⟨0, .green⟩

/-- The host takes the word at the head of its stream off the port, and the port shows no response until the command
returns one (10_state.md R23; log 4, log 13). -/
def acceptCommand (rest : List Word) (s : State) : State :=
  s.setEnv { s.env with cmds := rest, rsp := none }

end Sys2Proof.Machine
end

