-- ==== Sys2Proof/Machine/Blinker.lean ====
section
/-! DEFINITION. The BLK unit: BSTART and the step TOGGLE (43_status_blinker.md). -/

namespace Sys2Proof.Machine

/-- The status pin takes a level, and STATLOG records it (43_status_blinker.md R85, R86). -/
def driveStat (l : Level) (s : State) : State :=
  ((s.setBlkLevel l).setStat l).setStatlog (s.statlog ++ [l])

/-- `BSTART`; a second one does nothing (43_status_blinker.md R85). -/
def execBstart (s : State) : Host.Outcome State Fault Refusal :=
  if s.blkStarted then .next s else .next (driveStat .high (s.setBlkStarted true))

/-- TOGGLE, enabled once the toggler has been started (43_status_blinker.md R86; log 2). -/
def toggleStat (s : State) : State :=
  if s.blkStarted then driveStat (flipLevel s.blkLevel) s else s

end Sys2Proof.Machine
end

