-- ==== Sys2Proof/Machine/Operands.lean ====
section
/-! DEFINITION. The operand ranges of the commands. Every operand is an immediate field taken as it stands
(30_encoding.md R50); what is left to check is the legal range of an index (20_memory.md R31) and of a coordinate
(40_mapper.md R60). -/

namespace Sys2Proof.Machine

/-- `idx > 24` fails: the index selects an element (20_memory.md R31). -/
def indexInRange (idx : BitVec 5) : Bool := decide (idx.toNat < Config.elements)

/-- `row > 4 or col > 4` fails: the position is on the matrix (40_mapper.md R60). -/
def positionInRange (row col : BitVec 8) : Bool :=
  decide (row.toNat < Config.side) && decide (col.toNat < Config.side)

end Sys2Proof.Machine
end

