-- ==== Sys2Proof/Machine/Mapper.lean ====
section
/-! DEFINITION. The MAP unit (40_mapper.md). -/

namespace Sys2Proof.Machine

/-- The function `map` for 0 ≤ row ≤ 4 and 0 ≤ col ≤ 4: invert both axes, then run left to right in an even row and right
to left in an odd one (40_mapper.md R61). -/
def mapIndex (row col : Nat) : Nat :=
  let row' := 4 - row
  let col' := 4 - col
  if row' % 2 = 0 then row' * 5 + col' else row' * 5 + (4 - col')

/-- The inverse of `map` on 0..24, which no command computes (40_mapper.md R63). -/
def unmapIndex (k : Nat) : Nat × Nat :=
  let row' := k / 5
  let c := k % 5
  (4 - row', if row' % 2 = 0 then 4 - c else c)

/-- `MAP row, col` (40_mapper.md R60). -/
def execMap (row col : BitVec 8) (s : State) : Host.Outcome State Fault Refusal :=
  if positionInRange row col then
    .next (respond (BitVec.ofNat 24 (mapIndex row.toNat col.toNat)) s)
  else raiseNext .coordinateOutOfRange (.map row col) s

end Sys2Proof.Machine
end

