-- ==== Sys2Proof/Machine/PixelBuffer.lean ====
section
/-! DEFINITION. The FB unit: SET, GET and CLEAR (41_pixelbuffer.md). The order of the checks is 60_exceptions.md R105. -/

namespace Sys2Proof.Machine

/-- `SET idx, r, g, b` (41_pixelbuffer.md R65). -/
def execSet (idx : BitVec 5) (r g b : Byte) (s : State) : Host.Outcome State Fault Refusal :=
  if s.handle.valid = false then raiseNext .usedBeforeInit (.set idx r g b) s
  else if indexInRange idx then .next (s.setFb (Memory.write s.fb idx.toNat ⟨r, g, b⟩))
  else raiseNext .indexOutOfRange (.set idx r g b) s

/-- `GET idx` (41_pixelbuffer.md R66). -/
def execGet (idx : BitVec 5) (s : State) : Host.Outcome State Fault Refusal :=
  if s.handle.valid = false then raiseNext .usedBeforeInit (.get idx) s
  else if indexInRange idx then
    match Memory.read s.fb idx.toNat with
    | some p => .next (respond (packPixel p) s)
    | none => .fault (.unwrittenElement idx.toNat)
  else raiseNext .indexOutOfRange (.get idx) s

/-- `CLEAR`: every element is zeroed in the EXEC step, then the flush of WRITE begins (41_pixelbuffer.md R67). -/
def execClear (s : State) : Host.Outcome State Fault Refusal :=
  if s.handle.valid = false then raiseNext .usedBeforeInit .clear s
  else .next (beginFlush (s.setFb Memory.zeroed))

end Sys2Proof.Machine
end

