-- ==== Sys2Proof/Machine/Transport.lean ====
section
/-! DEFINITION. The TX unit: INIT and WRITE, the frame reader's step SUBMIT, and the pulse engine's steps EMIT and LATCH
(42_transport.md). A step that is not enabled leaves the state as it is (log 2). -/

namespace Sys2Proof.Machine

/-- The free lanes of a pool, `{ l in 0..LANES-1 | pool_free(pool, l) }` (42_transport.md R71). -/
def freeLanes (lanes : Nat) (mask : BitVec 4) : List Nat :=
  [0, 1, 2, 3].filter fun l => decide (l < lanes) && mask.getLsbD l

/-- `draw from` the lanes `l :: ls`: the one the number `n` picks (42_transport.md R71). -/
def drawLane (n l : Nat) (ls : List Nat) : Nat := (l :: ls).getD (n % (ls.length + 1)) l

/-- `claim(pool_free, pick_lane)`: a free lane of the primary pool, else one of the secondary pool, else none
(42_transport.md R71). -/
def claimLane (lanes n : Nat) (p : Pools) : Option (BitVec 1 × BitVec 2) :=
  match freeLanes lanes p.primary with
  | l :: ls => some (0, BitVec.ofNat 2 (drawLane n l ls))
  | [] =>
    match freeLanes lanes p.secondary with
    | l :: ls => some (1, BitVec.ofNat 2 (drawLane n l ls))
    | [] => none

/-- What a successful INIT does once it has its lane (42_transport.md R70); it has used one free value (log 10). -/
def takeLane (pool : BitVec 1) (lane : BitVec 2) (pin : Byte) (s : State) : State :=
  (((s.setHandle ⟨true, pool, lane, pin⟩).setFb Memory.zeroed).setDout .low).setEnv
    { s.env with draws := s.env.draws + 1 }

/-- `INIT pin` for `lanes` lanes a pool and the lane that `n` picks (42_transport.md R70). -/
def initWith (lanes n : Nat) (pin : BitVec 8) (s : State) : Host.Outcome State Fault Refusal :=
  if s.handle.valid then raiseNext .secondInit (.init pin) s
  else
    match claimLane lanes n s.env.poolFree with
    | some (pool, lane) => .next (takeLane pool lane pin s)
    | none => raiseNext .resourceExhaustion (.init pin) s

/-- `INIT pin` (42_transport.md R70). -/
def execInit (pin : BitVec 8) (s : State) : Host.Outcome State Fault Refusal :=
  initWith Config.lanes (Config.pickLane s.env.draws) pin s

/-- `WRITE` (42_transport.md R72). -/
def execWrite (s : State) : Host.Outcome State Fault Refusal :=
  if s.handle.valid = false then raiseNext .usedBeforeInit .write s
  else .next (beginFlush s)

/-- The advance of SCAN after a byte; after (24, 2) the flush is complete (42_transport.md R73, 10_state.md R17). DESIGN
CHOICE, unsafe: SCAN then keeps (24, blue) until the next flush begins; the spec leaves it unspecified while CMDST is not
Flushing (R17, 93 V5; log 25). -/
def advanceScan (s : State) : State :=
  match s.scan.ch with
  | .green => s.setScan ⟨s.scan.i, .red⟩
  | .red => s.setScan ⟨s.scan.i, .blue⟩
  | .blue =>
    if h : s.scan.i.val < 24 then s.setScan ⟨⟨s.scan.i.val + 1, by omega⟩, .green⟩
    else s.setCmdst .idle

/-- SUBMIT for a queue of capacity `depth` (42_transport.md R73). -/
def submitByte (depth : Nat) (s : State) : Host.Outcome State Fault Refusal :=
  if s.cmdst = .flushing ∧ s.txq.length < depth then
    match Memory.read s.fb s.scan.i.val with
    | some p => .next (advanceScan (s.setTxq (s.txq ++ [channelOf p s.scan.ch])))
    | none => .fault (.unwrittenElement s.scan.i.val)
  else .next s

/-- EMIT: one byte leaves the queue as 8 symbols, which end with DOUT low (42_transport.md R74, R76; log 12). -/
def emitByte (s : State) : State :=
  if s.handle.valid = true ∧ s.env.stall = false ∧ s.engCnt < Config.frameBytes then
    match s.txq with
    | b :: q => (((s.setTxq q).setWire (s.wire ++ [.byte b])).setEngCnt (s.engCnt + 1)).setDout .low
    | [] => s
  else s

/-- LATCH: after 75 bytes the engine holds DOUT low for at least T_RESET (42_transport.md R75; log 12). -/
def latchFrame (s : State) : State :=
  if s.env.stall = false ∧ s.engCnt = Config.frameBytes then
    ((s.setWire (s.wire ++ [.rst])).setEngCnt 0).setDout .low
  else s

end Sys2Proof.Machine
end

