-- ==== Sys2Proof/Machine/Dispatch.lean ====
section
/-! DEFINITION. One arm per command: the EXEC step of agent A (00_scope.md R8). That a command is issued only while CMDST is
Idle (10_state.md R17) is checked at the port, in Machine/Command.lean, and not here (log 15). -/

namespace Sys2Proof.Machine

def exec (i : Instr) (s : State) : Host.Outcome State Fault Refusal :=
  match i with
  | .init pin => Sys2Proof.Machine.execInit pin s
  | .set idx r g b => Sys2Proof.Machine.execSet idx r g b s
  | .get idx => Sys2Proof.Machine.execGet idx s
  | .clear => Sys2Proof.Machine.execClear s
  | .write => Sys2Proof.Machine.execWrite s
  | .map row col => Sys2Proof.Machine.execMap row col s
  | .bstart => Sys2Proof.Machine.execBstart s

end Sys2Proof.Machine
end

