-- ==== Sys2Proof/Machine/Command.lean ====
section
/-! DEFINITION. The command port (10_state.md R17, R23): issuing the word the host offers, and decoding it. -/

namespace Sys2Proof.Machine

/-- Executing one word: a command, or an illegal one, which raises ContractViolation sub-cause 5 and has no other effect
(30_encoding.md R51, R52, R57). -/
def executeWord (w : Word) (s : State) : Host.Outcome State Fault Refusal :=
  match decode w with
  | .ok i => exec i s
  | .error _ => .next (raise .illegalCommand w s)

/-- EXEC of the next command: enabled while CMDST is Idle and the host offers a word; while Flushing or Halted the word
stays on the port (10_state.md R17; log 2, log 4, log 15). -/
def execCommand (s : State) : Host.Outcome State Fault Refusal :=
  if s.cmdst = .idle then
    match s.env.cmds with
    | w :: rest => executeWord w (acceptCommand rest s)
    | [] => .next s
  else .next s

/-- One command issued by the host outside its stream, accepted while CMDST is Idle (used by the expansions of
Machine/Renderer.lean). DESIGN CHOICE: on a port that is not ready it is dropped, with no effect on LMD, and not held until
Idle (safe for LMD, unsafe for a claim about a host program of several flushes); the spec says only that the host never issues then (70_reset_and_hazards.md R134; log 24). -/
def issueCommand (i : Instr) (s : State) : Host.Outcome State Fault Refusal :=
  if s.cmdst = .idle then exec i (acceptCommand s.env.cmds s) else .next s

end Sys2Proof.Machine
end

