-- ==== Sys2Proof/Machine/Environment.lean ====
section
/-! DEFINITION. What the host and the environment do that is not the issue of a command: adding a word to the command
stream, reset, the stall, and the input `pool_free` (00_scope.md R8, 70_reset_and_hazards.md R134). -/

namespace Sys2Proof.Machine

/-- The host will issue `w` after the words already in its stream (log 4). -/
def offerWord (w : Word) (s : State) : State :=
  s.setEnv { s.env with cmds := s.env.cmds ++ [w] }

/-- `rst`: every piece of state at the value of 10_state.md R28, the unspecified ones at fresh free values; a stall ends,
and the host begins a new command list (70_reset_and_hazards.md R120, R134; log 7). -/
def assertReset (s : State) : State :=
  State.resetWith (Config.unspecified s.env.draws)
    { s.env with cmds := [], rsp := none, stall := false, draws := s.env.draws + 1 }

/-- STALL becomes true and stays true until reset (42_transport.md R77). -/
def beginStall (s : State) : State := s.setEnv { s.env with stall := true }

/-- The input `pool_free` takes the value `p` (10_state.md R23). -/
def supplyPoolFree (p : Pools) (s : State) : State := s.setEnv { s.env with poolFree := p }

end Sys2Proof.Machine
end

