-- ==== Sys2Proof/Machine/Schedule.lean ====
section
/-! DEFINITION. The interleaving of the agents (00_scope.md R8, 93 V9): one step of the model is one move. A placed move is
taken first; where none is placed, the move is a free value, so that what holds of every step holds of every schedule
(log 1). -/

namespace Sys2Proof.Machine

/-- The move the next step takes. -/
def nextMove (s : State) : Move :=
  match s.env.moves with
  | m :: _ => m
  | [] => Config.freeMove s.env.draws

/-- The state once that move has been taken off the schedule, before it has its effect. -/
def consumeMove (s : State) : State :=
  match s.env.moves with
  | _ :: ms => s.setEnv { s.env with moves := ms }
  | [] => s.setEnv { s.env with draws := s.env.draws + 1 }

/-- The effect of one move. -/
def perform (m : Move) (s : State) : Host.Outcome State Fault Refusal :=
  match m with
  | .exec => execCommand s
  | .submit => submitByte Config.txqDepth s
  | .emit => .next (emitByte s)
  | .latch => .next (latchFrame s)
  | .toggle => .next (toggleStat s)
  | .offer w => .next (offerWord w s)
  | .rst => .next (assertReset s)
  | .stall => .next (beginStall s)
  | .setPoolFree p => .next (supplyPoolFree p s)

/-- Whether the step of a move is enabled: for an agent its rule's condition (10_state.md R17; 42_transport.md R73 to R75;
43_status_blinker.md R86); what the host and the environment do they may do at any time (70_reset_and_hazards.md R134). -/
def enabled (m : Move) (s : State) : Bool :=
  match m with
  | .exec => decide (s.cmdst = .idle ∧ s.env.cmds ≠ [])
  | .submit => decide (s.cmdst = .flushing ∧ s.txq.length < Config.txqDepth)
  | .emit => decide (s.handle.valid = true ∧ s.env.stall = false ∧ s.txq ≠ [] ∧ s.engCnt < Config.frameBytes)
  | .latch => decide (s.env.stall = false ∧ s.engCnt = Config.frameBytes)
  | .toggle => s.blkStarted
  | .offer _ => true
  | .rst => true
  | .stall => true
  | .setPoolFree _ => true

/-- The steps of the agents A, E and B, as against the acts of H (00_scope.md R8). -/
def isAgentStep (m : Move) : Bool :=
  match m with
  | .exec => true
  | .submit => true
  | .emit => true
  | .latch => true
  | .toggle => true
  | .offer _ => false
  | .rst => false
  | .stall => false
  | .setPoolFree _ => false

/-- A list of moves, one after another, stopping at the first stop. -/
def performAll : List Move → State → Host.Outcome State Fault Refusal
  | [], s => .next s
  | m :: ms, s =>
    match perform m s with
    | .next t => performAll ms t
    | .fault e => .fault e
    | .refused e => .refused e

/-- The state with `ms` placed as the next moves. -/
def placeMoves (ms : List Move) (s : State) : State := s.setEnv { s.env with moves := ms }

/-- The state with the word `w` offered on an open command port and EXEC placed as the next move (log 3). -/
def offerNow (w : Word) (s : State) : State :=
  (s.setCmdst .idle).setEnv { s.env with cmds := w :: s.env.cmds, moves := .exec :: s.env.moves }

end Sys2Proof.Machine
end

