-- ==== Sys2Proof/Machine/Step.lean ====
section
/-! DEFINITION. One step of LMD: the next move of its agents and its environment (00_scope.md R8), and the placing of one
instruction where the next step takes its command from (log 3). -/

namespace Sys2Proof.Machine

/-- One atomic step of one agent. -/
def step (s : State) : Host.Outcome State Fault Refusal := perform (nextMove s) (consumeMove s)

/-- `s` with one command word offered so that the very next step executes it: LMD fetches nothing (10_state.md R17), so the
word goes to the head of the host's stream, the port is open, and EXEC is the next move (log 3). -/
def State.withFetchWord (s : State) (nbits w : Nat) : State :=
  offerNow (BitVec.ofNat 32 (w % 2 ^ nbits)) s

end Sys2Proof.Machine
end

