-- ==== Sys2Proof/Machine/Renderer.lean ====
section
/-! DEFINITION. The frame renderer as pseudo-instructions of the host (44_frame_renderer.md): they add no state and no
opcode. An expansion issues its commands back to back, no other agent moving between them (log 16). -/

namespace Sys2Proof.Machine

/-- One line of a host program: a pseudo-instruction SETXY or a command. -/
inductive HostOp where
  | setxy (row col : BitVec 8) (r g b : Byte)
  | command (i : Instr)
  deriving DecidableEq, Repr

/-- Go on from a next state; stop where the first part stopped. -/
def thenNext (o : Host.Outcome State Fault Refusal) (f : State → Host.Outcome State Fault Refusal) :
    Host.Outcome State Fault Refusal :=
  match o with
  | .next s => f s
  | .fault e => .fault e
  | .refused e => .refused e

/-- The second command of SETXY: `SET k, r, g, b` with `k` the index MAP has just returned; where MAP has returned
nothing, no SET is issued (44_frame_renderer.md R92). -/
def setWithResponse (r g b : Byte) (s : State) : Host.Outcome State Fault Refusal :=
  match s.env.rsp with
  | some k => issueCommand (.set (k.extractLsb' 0 5) r g b) s
  | none => .next s

/-- `SETXY row, col, r, g, b` (44_frame_renderer.md R92). On a port that is not ready the line is skipped whole: the model's
choice, the spec's host issues nothing then (log 24). -/
def runSetxy (row col : BitVec 8) (r g b : Byte) (s : State) : Host.Outcome State Fault Refusal :=
  if s.cmdst = .idle then thenNext (issueCommand (.map row col) s) (setWithResponse r g b) else .next s

/-- One line of a host program. -/
def runHostOp : HostOp → State → Host.Outcome State Fault Refusal
  | .setxy row col r g b, s => runSetxy row col r g b s
  | .command i, s => issueCommand i s

/-- A host program, line by line, each issued as soon as the one before it has been: a line that meets a port that is not
ready is skipped and the next one tried, so a RENDER straight after a RENDER draws nothing. The model's choice (log 24): the
spec's host waits for `cmd_ready` (70_reset_and_hazards.md R134), which takes moves of the other agents. -/
def runHostOps : List HostOp → State → Host.Outcome State Fault Refusal
  | [], s => .next s
  | op :: ops, s => thenNext (runHostOp op s) (runHostOps ops)

/-- The 25 positions in row-major order (44_frame_renderer.md R93). -/
def cells : List (Nat × Nat) :=
  (List.range 5).flatMap fun row => (List.range 5).map fun col => (row, col)

/-- The pixel of a cell of a bitmap: c = 0 red, c = 1 green, c = 2 blue (44_frame_renderer.md R94). -/
def bitmapPixel (bitmap : Nat → Nat → Nat → Nat → Byte) (d row col : Nat) : Pixel :=
  ⟨bitmap d row col 0, bitmap d row col 1, bitmap d row col 2⟩

/-- The SETXY of one cell of digit `d` (44_frame_renderer.md R93). -/
def cellOp (bitmap : Nat → Nat → Nat → Nat → Byte) (d : Nat) (rc : Nat × Nat) : HostOp :=
  .setxy (BitVec.ofNat 8 rc.1) (BitVec.ofNat 8 rc.2) (bitmap d rc.1 rc.2 0) (bitmap d rc.1 rc.2 1)
    (bitmap d rc.1 rc.2 2)

/-- The expansion of `RENDER d`, for a BITMAP given as an argument; a digit above 9 has none (44_frame_renderer.md R93,
R96). -/
def expandRender (bitmap : Nat → Nat → Nat → Nat → Byte) (d : Nat) : Option (List HostOp) :=
  if d ≤ 9 then some (cells.map (cellOp bitmap d) ++ [.command .write]) else none

/-- The commands of one line of a host program as words, with the index the mapper gives written for `k`
(44_frame_renderer.md R92: "In a listing with constant operands, `k` is written as the value rule R62 gives"). Off the matrix
the MAP faults and no SET is issued, so none is listed. -/
def hostOpWords : HostOp → List Word
  | .setxy row col r g b =>
    if positionInRange row col then
      [encode (.map row col), encode (.set (BitVec.ofNat 5 (mapIndex row.toNat col.toNat)) r g b)]
    else [encode (.map row col)]
  | .command i => [encode i]

end Sys2Proof.Machine
end

