-- ==== Sys2Proof/Machine/Assembler.lean ====
section
/-! DEFINITION. The assembly notation of 30_encoding.md R54 and R55: from the characters of a line to the words it stands
for. It is the host's and touches no state. Blanks are spaces and tabs, a line may hold nothing but a comment, and the
digits of a `0x` numeral are of either case (log 21). -/

namespace Sys2Proof.Machine

/-- A line of source: nothing, one command or `.word`, or a pseudo-instruction. -/
inductive SourceLine where
  | blank
  | command (line : AsmLine)
  | setxy (row col r g b : Nat)
  | render (digit : Nat)
  deriving DecidableEq, Repr

/-- The value of a digit. -/
def digitValue (c : Char) : Option Nat :=
  if '0' ≤ c ∧ c ≤ '9' then some (c.toNat - '0'.toNat)
  else if 'a' ≤ c ∧ c ≤ 'f' then some (c.toNat - 'a'.toNat + 10)
  else if 'A' ≤ c ∧ c ≤ 'F' then some (c.toNat - 'A'.toNat + 10)
  else none

/-- The number that digits of a base write, going on from `acc`. -/
def digits (base : Nat) : Nat → List Char → Option Nat
  | acc, [] => some acc
  | acc, c :: cs =>
    match digitValue c with
    | some d => if d < base then digits base (acc * base + d) cs else none
    | none => none

/-- "numerals decimal or `0x` hexadecimal" (30_encoding.md R54). -/
def numeral : List Char → Option Nat
  | [] => none
  | '0' :: 'x' :: c :: cs => digits 16 0 (c :: cs)
  | c :: cs => digits 10 0 (c :: cs)

def isBlank (c : Char) : Bool := decide (c = ' ') || decide (c = '\t')

/-- Characters without the blanks at either end. -/
def trimBlanks (cs : List Char) : List Char :=
  ((cs.dropWhile isBlank).reverse.dropWhile isBlank).reverse

/-- The parts of a list between commas, at least one. -/
def commaParts : List Char → List (List Char)
  | [] => [[]]
  | c :: cs =>
    if c = ',' then [] :: commaParts cs
    else
      match commaParts cs with
      | [] => [[c]]
      | p :: ps => (c :: p) :: ps

/-- Every part as a numeral, or nothing. -/
def numerals : List (List Char) → Option (List Nat)
  | [] => some []
  | p :: ps =>
    match numeral (trimBlanks p), numerals ps with
    | some n, some ns => some (n :: ns)
    | _, _ => none

/-- "the operands in the order of the source's contract, separated by commas" (30_encoding.md R54). -/
def operandsOf (cs : List Char) : Option (List Nat) :=
  if trimBlanks cs = [] then some [] else numerals (commaParts cs)

/-- The line a mnemonic and its operands make; a wrong number of operands makes none. -/
def lineOf (mnemonic : List Char) (ops : List Nat) : Option SourceLine :=
  if mnemonic = ['I', 'N', 'I', 'T'] then
    match ops with | [pin] => some (.command (.init pin)) | _ => none
  else if mnemonic = ['S', 'E', 'T'] then
    match ops with | [idx, r, g, b] => some (.command (.set idx r g b)) | _ => none
  else if mnemonic = ['G', 'E', 'T'] then
    match ops with | [idx] => some (.command (.get idx)) | _ => none
  else if mnemonic = ['C', 'L', 'E', 'A', 'R'] then
    match ops with | [] => some (.command .clear) | _ => none
  else if mnemonic = ['W', 'R', 'I', 'T', 'E'] then
    match ops with | [] => some (.command .write) | _ => none
  else if mnemonic = ['M', 'A', 'P'] then
    match ops with | [row, col] => some (.command (.map row col)) | _ => none
  else if mnemonic = ['B', 'S', 'T', 'A', 'R', 'T'] then
    match ops with | [] => some (.command .bstart) | _ => none
  else if mnemonic = ['.', 'w', 'o', 'r', 'd'] then
    match ops with | [w] => some (.command (.word w)) | _ => none
  else if mnemonic = ['S', 'E', 'T', 'X', 'Y'] then
    match ops with | [row, col, r, g, b] => some (.setxy row col r g b) | _ => none
  else if mnemonic = ['R', 'E', 'N', 'D', 'E', 'R'] then
    match ops with | [d] => some (.render d) | _ => none
  else none

/-- Reading one line; `;` begins a comment (30_encoding.md R54). -/
def parseLine (cs : List Char) : Option SourceLine :=
  let body := trimBlanks (cs.takeWhile fun c => decide (c ≠ ';'))
  if body = [] then some .blank
  else
    match operandsOf (body.dropWhile fun c => !isBlank c) with
    | some ops => lineOf (body.takeWhile fun c => !isBlank c) ops
    | none => none

/-- The words of a line, for a BITMAP given as an argument: those of R54, or of the expansion of a pseudo-instruction
(30_encoding.md R55); an operand that does not fit its field, and a digit above 9, are refused. -/
def sourceWords (bitmap : Nat → Nat → Nat → Nat → Byte) : SourceLine → Option (List Word)
  | .blank => some []
  | .command line =>
    match assemble line with
    | some w => some [w]
    | none => none
  | .setxy row col r g b =>
    if row < 256 ∧ col < 256 ∧ r < 256 ∧ g < 256 ∧ b < 256 then
      some (hostOpWords (.setxy (BitVec.ofNat 8 row) (BitVec.ofNat 8 col) (BitVec.ofNat 8 r) (BitVec.ofNat 8 g)
        (BitVec.ofNat 8 b)))
    else none
  | .render d =>
    match expandRender bitmap d with
    | some ops => some (ops.flatMap hostOpWords)
    | none => none

/-- Assembling the characters of a line. -/
def assembleText (bitmap : Nat → Nat → Nat → Nat → Byte) (cs : List Char) : Option (List Word) :=
  match parseLine cs with
  | some line => sourceWords bitmap line
  | none => none

end Sys2Proof.Machine
end

