-- ==== Sys2Proof/Machine/Flags.lean ====
section
/-! DEFINITION. LMD has no condition codes (10_state.md R22). Its flags are the status outputs of R23, each a function of
the state; with them stand the words of the ports `fault_rec` (R15), `handle` (R14) and `rsp_word` (R16). -/

namespace Sys2Proof.Machine

/-- `cmd_ready`: 1 exactly when CMDST = Idle. -/
def cmdReady (s : State) : Bool := decide (s.cmdst = .idle)

/-- `cmd_valid`: the host offers a word (log 4). -/
def cmdValid (s : State) : Bool := !s.env.cmds.isEmpty

/-- `cmd_word`: the word offered, if one is. -/
def cmdWord (s : State) : Option Word := s.env.cmds.head?

/-- `rsp_valid`: the command last issued was a GET or a MAP and has completed (log 13). -/
def rspValid (s : State) : Bool := s.env.rsp.isSome

/-- `rsp_word = RES`. -/
def rspWord (s : State) : BitVec 24 := s.res

/-- `fault`: the bit FAULT.valid. -/
def faultOut (s : State) : Bool := s.fault.valid

/-- `fault_rec[37:0]`: valid 37, cause 36:35, sub 34:32, cmd 31:0 (10_state.md R15). -/
def faultRec (s : State) : BitVec 38 :=
  BitVec.ofBool s.fault.valid ++ s.fault.cause ++ s.fault.sub ++ s.fault.cmd

/-- `handle[11:0]`: valid 11, pool 10, lane 9:8, pin 7:0 (10_state.md R14). -/
def handleOut (s : State) : BitVec 12 :=
  BitVec.ofBool s.handle.valid ++ s.handle.pool ++ s.handle.lane ++ s.handle.pin

/-- `txq_full` for a queue of capacity `depth`. -/
def txqFullAt (depth : Nat) (s : State) : Bool := decide (s.txq.length = depth)

/-- `txq_full`: TXQ holds TXQ_DEPTH bytes. -/
def txqFull (s : State) : Bool := txqFullAt Config.txqDepth s

/-- `txq_empty`: TXQ holds no byte. -/
def txqEmpty (s : State) : Bool := s.txq.isEmpty

/-- `eng_idle`: TXQ is empty and ENG.cnt = 0. -/
def engIdle (s : State) : Bool := s.txq.isEmpty && decide (s.engCnt = 0)

/-- `blk_started`. -/
def blkStartedOut (s : State) : Bool := s.blkStarted

/-- `DOUT`. -/
def doutPin (s : State) : BitVec 1 := levelBit s.dout

/-- `STAT`. -/
def statPin (s : State) : BitVec 1 := levelBit s.stat

end Sys2Proof.Machine
end

