-- ==== Sys2Proof/Machine/Signals.lean ====
section
/-! DEFINITION. What the histories are on the pins: the bits of a byte of WIRE in BIT_ORDER (10_state.md R20, 20_memory.md
R36), the symbol of a bit (42_transport.md R76), the levels of STAT (43_status_blinker.md R87); and what the LED chain outside
LMD shows of WIRE (42_transport.md R82). -/

namespace Sys2Proof.Machine

/-- The bytes WIRE has carried, oldest first (20_memory.md R41). -/
def wireBytes : List WireEvent → List Byte
  | [] => []
  | .byte b :: es => b :: wireBytes es
  | .rst :: es => wireBytes es

/-- The bit sequence of `B(b)` (10_state.md R20). -/
def byteBits (o : BitOrder) (b : Byte) : List Bool :=
  match o with
  | .msbFirst => [7, 6, 5, 4, 3, 2, 1, 0].map b.getLsbD
  | .lsbFirst => [0, 1, 2, 3, 4, 5, 6, 7].map b.getLsbD

/-- The bits WIRE has carried, in the order they were on DOUT. -/
def wireBits (o : BitOrder) (es : List WireEvent) : List Bool := (wireBytes es).flatMap (byteBits o)

/-- The symbol of a bit: high, then low (42_transport.md R76). That the short pulse is the 0 is PRESUMED by the spec
itself (92 D9; log 11). -/
def symbolOf (bit : Bool) : List (Level × Nat) :=
  if bit then [(.high, Config.t1h), (.low, Config.t1l)] else [(.high, Config.t0h), (.low, Config.t0l)]

/-- An event as levels of DOUT and how long each is held; the low time of `RST` is the least one allowed
(10_state.md R20, 42_transport.md R75). -/
def eventWave (o : BitOrder) : WireEvent → List (Level × Nat)
  | .byte b => (byteBits o b).flatMap symbolOf
  | .rst => [(.low, Config.tReset)]

/-- The waveform of a history of DOUT. -/
def waveform (o : BitOrder) (es : List WireEvent) : List (Level × Nat) := es.flatMap (eventWave o)

/-- The waveform of WIRE in the bit order of this LMD. -/
def doutWave (s : State) : List (Level × Nat) := waveform Config.bitOrder s.wire

/-- The waveform of STATLOG in milliseconds: each level is held for T_HALF (43_status_blinker.md R87). DESIGN CHOICE, unsafe:
that the first HIGH lasts a whole T_HALF too, and that every level lasts exactly T_HALF, with no tolerance; the spec leaves
both open (91_not_in_source.md N12; log 23). Timing only: no step, no rule and no obligation depends on it. -/
def statWave (s : State) : List (Level × Nat) := s.statlog.map fun l => (l, Config.tHalfMillis)

/-- The pixels of a sequence of bytes in the order green, red, blue (20_memory.md R35). -/
def pixelsOf : List Byte → List Pixel
  | g :: r :: b :: rest => ⟨r, g, b⟩ :: pixelsOf rest
  | _ => []

/-- PRESUMED by the spec itself, from general knowledge (42_transport.md R82, 93 G4; log 22): the bytes the chain has taken
since the last reset period, chip by chip the first 24 bits each, and what its 25 chips show. -/
def chainStep : List Byte × List Pixel → WireEvent → List Byte × List Pixel
  | (kept, shown), .byte b => (kept ++ [b], shown)
  | (kept, _), .rst => ([], (pixelsOf kept).take Config.elements)

/-- What the chain shows after a history of the wire: chip `i` the entry `i`, nothing known before the first RST. -/
def chainShows (es : List WireEvent) : List Pixel := (es.foldl chainStep ([], [])).2

end Sys2Proof.Machine
end

