-- ==== Sys2Proof/Safety.lean ====
section
/-! DEFINITION. The terms statements are made in: what a good state is (`Inv`, part by part), when a run is over, faulted or
stuck (70_reset_and_hazards.md R134), and what one agent can see (10_state.md R25). -/

namespace Sys2Proof.Machine

/-- Every element of the frame buffer holds a value. -/
abbrev Memory.full (m : Memory) : Prop := ∀ i < Config.elements, (Memory.read m i).isSome = true

/-- The frame buffer is canonical, and full once INIT has succeeded (10_state.md R28, 42_transport.md R70). -/
def FbGood (s : State) : Prop := Memory.wf s.fb ∧ (s.handle.valid = true → Memory.full s.fb)

/-- A is Halted exactly when a fault is recorded, and flushes only once initialised (10_state.md R15, R17). -/
def SequencingGood (s : State) : Prop :=
  (s.cmdst = .halted ↔ s.fault.valid = true) ∧ (s.cmdst = .flushing → s.handle.valid = true)

/-- FAULT holds legal values: cause and sub are 0 while nothing is recorded, a recorded pair is one of
60_exceptions.md R101 and R102; cause 3 and sub-causes 6 and 7 are never written (10_state.md R15). -/
def FaultGood (s : State) : Prop :=
  if s.fault.valid = true then
    (s.fault.cause = 1 ∧ s.fault.sub = 0) ∨ (s.fault.cause = 2 ∧ 1 ≤ s.fault.sub.toNat ∧ s.fault.sub.toNat ≤ 5)
  else s.fault.cause = 0 ∧ s.fault.sub = 0

/-- The queue never holds more than TXQ_DEPTH bytes, and before INIT nothing has been queued or sent
(10_state.md R18, 42_transport.md R78). -/
def QueueGood (s : State) : Prop :=
  s.txq.length ≤ Config.txqDepth ∧ (s.handle.valid = false → s.txq = [] ∧ s.engCnt = 0 ∧ s.wire = [])

/-- Reading a wire history from `n` bytes into a frame: the number of bytes since the last RST, or nothing if some RST does
not follow exactly 75 bytes or a 76th byte comes without one (42_transport.md R75). -/
def framedCount : Nat → List WireEvent → Option Nat
  | n, [] => some n
  | n, .byte _ :: es => if n < Config.frameBytes then framedCount (n + 1) es else none
  | n, .rst :: es => if n = Config.frameBytes then framedCount 0 es else none

/-- How many frames have been latched. -/
def latchCount : List WireEvent → Nat
  | [] => 0
  | .byte _ :: es => latchCount es
  | .rst :: es => latchCount es + 1

/-- ENG.cnt counts the bytes since the last frame boundary, every boundary after exactly 75 (10_state.md R19,
42_transport.md R75). -/
def EngineGood (s : State) : Prop := framedCount 0 s.wire = some s.engCnt ∧ s.engCnt ≤ Config.frameBytes

/-- DOUT is low between steps from INIT on (10_state.md R19). -/
def PinGood (s : State) : Prop := s.handle.valid = true → s.dout = .low

/-- `n` alternating levels from `l` on. -/
def alternate : Level → Nat → List Level
  | _, 0 => []
  | l, n + 1 => l :: alternate (flipLevel l) n

/-- STATLOG alternates from HIGH, is empty until BSTART, and ends with the level of STAT, which equals BLK.level
(10_state.md R21, 43_status_blinker.md R86). -/
def TogglerGood (s : State) : Prop :=
  s.statlog = alternate .high s.statlog.length ∧ (s.blkStarted = true ↔ s.statlog ≠ []) ∧
    (s.blkStarted = true → s.stat = s.blkLevel ∧ s.statlog.getLast? = some s.stat)

/-- Every byte submitted so far, in order: what the wire has carried, then what waits in the queue (20_memory.md R41). -/
def submitted (s : State) : List Byte := wireBytes s.wire ++ s.txq

/-- The number of a channel phase (10_state.md R17). -/
def phaseNumber : Phase → Nat
  | .green => 0
  | .red => 1
  | .blue => 2

/-- How many bytes of the flush in progress have been submitted. -/
def flushed (s : State) : Nat :=
  if s.cmdst = .flushing then 3 * s.scan.i.val + phaseNumber s.scan.ch else 0

/-- The submitted bytes are whole frames, but for the flush in progress, whose bytes are the first ones of `frame(FB)`
(42_transport.md R78). -/
def FlushGood (s : State) : Prop :=
  (submitted s).length % Config.frameBytes = flushed s ∧
    (submitted s).drop ((submitted s).length - flushed s) = (frameOf s.fb).take (flushed s)

/-- What holds of every state a run from reset reaches. -/
structure Inv (s : State) : Prop where
  fbGood : FbGood s
  sequencingGood : SequencingGood s
  faultGood : FaultGood s
  queueGood : QueueGood s
  engineGood : EngineGood s
  pinGood : PinGood s
  togglerGood : TogglerGood s
  flushGood : FlushGood s

/-- No step of A or E is enabled; B never ends and is left out (70_reset_and_hazards.md R134). -/
abbrev Quiescent (s : State) : Prop := ∀ m ∈ [Move.exec, .submit, .emit, .latch], enabled m s = false

/-- THE RUN IS OVER: the list is exhausted, A is idle and unfaulted, the engine is idle (70_reset_and_hazards.md R134). -/
abbrev RunOver (s : State) : Prop :=
  s.env.cmds = [] ∧ s.cmdst = .idle ∧ s.fault.valid = false ∧ s.txq = [] ∧ s.engCnt = 0

/-- A run that has FAULTED: A is halted, and the state is quiescent, so what had been handed over before the fault has been
sent, unless the engine is stalled (70_reset_and_hazards.md R134, 42_transport.md R81). -/
abbrev RunFaulted (s : State) : Prop := s.cmdst = .halted ∧ s.fault.valid = true ∧ Quiescent s

/-- A flush that is STUCK: the engine is stalled and the queue is full (42_transport.md R77). -/
def RunStuck (s : State) : Prop :=
  s.cmdst = .flushing ∧ s.env.stall = true ∧ Config.txqDepth ≤ s.txq.length

/-- What is observed of a run (70_reset_and_hazards.md R134). -/
inductive Observation where
  /-- Of a run that is over; `alternates` only if the toggler was started: STATLOG is alternating from HIGH. -/
  | over (fb : Memory) (res : BitVec 24) (handle : Handle) (wire : List WireEvent) (alternates : Option Bool)
  /-- Of a run that has FAULTED. -/
  | faulted (record : FaultRecord) (fb : Memory) (wire : List WireEvent)
  deriving DecidableEq, Repr

/-- The observation at the end of a run; none while it goes on, and none of a run that is STUCK, which is not final
(70_reset_and_hazards.md R134). -/
def observe (s : State) : Option Observation :=
  if RunOver s then
    some (.over s.fb s.res s.handle s.wire
      (if s.blkStarted then some (decide (s.statlog = alternate .high s.statlog.length)) else none))
  else if RunFaulted s then some (.faulted s.fault s.fb s.wire)
  else none

/-- The first `n` moves of a schedule. -/
def firstMoves (σ : Nat → Move) (n : Nat) : List Move := (List.range n).map σ

/-- Weak fairness of the agents along a schedule from `s`: a step of A, E or B that is enabled in every state from some point
on is taken at or after that point (70_reset_and_hazards.md R131, R133). Nothing is asked of the environment. -/
def WeaklyFair (σ : Nat → Move) (s : State) : Prop :=
  ∀ m, isAgentStep m = true → ∀ n,
    (∀ k ≥ n, ∀ t, performAll (firstMoves σ k) s = .next t → enabled m t = true) → ∃ k ≥ n, σ k = m

/-- `s` with everything agent B owns made the same: what A and E can see (10_state.md R25). -/
def hideToggler (s : State) : State :=
  (((s.setBlkStarted false).setBlkLevel .low).setStat .low).setStatlog []

/-- What agent B reads and writes (10_state.md R25). -/
def togglerView (s : State) : Bool × Level × Level × List Level := (s.blkStarted, s.blkLevel, s.stat, s.statlog)

/-- An outcome seen through `f`. -/
def seenThrough {β : Type} (f : State → β) : Host.Outcome State Fault Refusal → Host.Outcome β Fault Refusal
  | .next s => .next (f s)
  | .fault e => .fault e
  | .refused e => .refused e

/-- The word the next EXEC would take off the port, where it is enabled, and the command it is. -/
def commandAtPort (s : State) : Option Instr :=
  if s.cmdst = .idle then
    match s.env.cmds with
    | w :: _ => (match decode w with | .ok i => some i | .error _ => none)
    | [] => none
  else none

/-- `n` rounds in which the engine, and then the frame reader, is offered each of its steps once: a schedule that is fair to
both (70_reset_and_hazards.md R133; log 18). -/
def serveRounds : Nat → List Move
  | 0 => []
  | n + 1 => .latch :: .emit :: .submit :: serveRounds n

end Sys2Proof.Machine
end

