-- ==== Sys2Proof/Certificates/Slice0/Obligations.lean ====
section
/-! DEFINITION. The statements for the provers, by the spec's files: encoding, the command port, what each command does, the
faults, the frames, the steps of the agents, reset, the invariant, the whole-machine rules, the flush, the host's side. -/

open Sys2Proof Sys2Proof.Machine

/-! ## Encoding (30_encoding.md) -/

/-- Words of 95_test_vectors.md section 2.1, each read from the bit tables of 30_encoding.md R48. -/
def Obligations.SpecWordsDecode : Prop :=
  decode 0x20000007#32 = .ok (.init 7) ∧
  decode 0x58102030#32 = .ok (.set 24 0x10 0x20 0x30) ∧
  decode 0x78000000#32 = .ok (.get 24) ∧
  decode 0x80000000#32 = .ok .clear ∧
  decode 0xA0000000#32 = .ok .write ∧
  decode 0xC0000203#32 = .ok (.map 2 3) ∧
  decode 0xE0000000#32 = .ok .bstart ∧
  decode 0x20000107#32 = .error .reservedBit ∧
  decode 0x1FFFFFFF#32 = .error .reservedOpcode

/-- Decoding the word of any command, with any operands, gives that command back (30_encoding.md R48, R50). -/
def Obligations.DecodeOfEncode : Prop := ∀ i : Instr, decode (encode i) = .ok i

/-- A word that decodes to a command is that command's encoding: no bit of the word is dropped (30_encoding.md R57). -/
def Obligations.EncodeOfDecode : Prop := ∀ (w : Word) (i : Instr), decode w = .ok i → encode i = w

/-- 30_encoding.md R57 with the match and mask of R49: each word is selected by exactly one row and is that row's command,
its operands the fields of R50; or it is selected by none and is illegal. -/
def Obligations.DecodeIsTheOpcodeMap : Prop :=
  ∀ w : Word,
    (∃ row i, opcodeMap.filter (fun r => r.selects w) = [row] ∧ decode w = .ok i ∧ i.mnemonic = row.mnemonic ∧
      (match i with
        | .init pin => pin = w.extractLsb' 0 8
        | .set idx r g b => idx = w.extractLsb' 24 5 ∧ r = w.extractLsb' 16 8 ∧ g = w.extractLsb' 8 8 ∧ b = w.extractLsb' 0 8
        | .get idx => idx = w.extractLsb' 24 5
        | .map row col => row = w.extractLsb' 8 8 ∧ col = w.extractLsb' 0 8
        | .clear => True
        | .write => True
        | .bstart => True)) ∨
    (opcodeMap.filter (fun r => r.selects w) = [] ∧ ∃ e, decode w = .error e)

/-- 30_encoding.md R51 and R52: a word is a command exactly when its opcode is not 000 and no reserved bit of its format is
set, every word of opcode 010 is one, and executing any other word raises sub-cause 5 and does nothing else. -/
def Obligations.ReservedBitsMakeAWordIllegal : Prop :=
  (∀ w : Word, (∃ i, decode w = .ok i) ↔ wordWf w = true) ∧
  (∀ w : Word, w.extractLsb' 29 3 = 0b010#3 → wordWf w = true) ∧
  (∀ w : Word, w.extractLsb' 29 3 = 0b000#3 → wordWf w = false) ∧
  (∀ (w : Word) (s : State), wordWf w = false →
    executeWord w s = .next { s with fault := ⟨true, 2, 5, w⟩, cmdst := .halted })

/-- 30_encoding.md R54: a line whose operands fit assembles to the word of its command; any other is refused; `.word w` is
`w`. -/
def Obligations.AssemblerMatchesEncoder : Prop :=
  (∀ pin, assemble (.init pin) = if pin < 256 then some (encode (.init (BitVec.ofNat 8 pin))) else none) ∧
  (∀ idx r g b, assemble (.set idx r g b) =
    if idx < 32 ∧ r < 256 ∧ g < 256 ∧ b < 256 then
      some (encode (.set (BitVec.ofNat 5 idx) (BitVec.ofNat 8 r) (BitVec.ofNat 8 g) (BitVec.ofNat 8 b)))
    else none) ∧
  (∀ idx, assemble (.get idx) = if idx < 32 then some (encode (.get (BitVec.ofNat 5 idx))) else none) ∧
  (assemble .clear = some (encode .clear)) ∧
  (assemble .write = some (encode .write)) ∧
  (∀ row col, assemble (.map row col) =
    if row < 256 ∧ col < 256 then some (encode (.map (BitVec.ofNat 8 row) (BitVec.ofNat 8 col))) else none) ∧
  (assemble .bstart = some (encode .bstart)) ∧
  (∀ w, assemble (.word w) = if w < 2 ^ 32 then some (BitVec.ofNat 32 w) else none)

/-! ## The command port and the step (10_state.md R17) -/

/-- When the next move is EXEC, the port is open and the word offered decodes to `i`, step is exec of `i` at the state
with the move taken off the schedule, the word off the stream and the response port cleared. The schedule, the stream
and the response port are the model's own (log 1, log 4, log 13). -/
def Obligations.StepRunsTheDecodedCommand : Prop :=
  ∀ (s : State) (ms : List Move) (w : Word) (ws : List Word) (i : Instr),
    s.env.moves = .exec :: ms → s.cmdst = .idle → s.env.cmds = w :: ws → decode w = .ok i →
    step s = exec i { s with env := { s.env with moves := ms, cmds := ws, rsp := none } }

/-- The same for a word that is no command: the step raises ContractViolation sub-cause 5 with that word. The schedule,
the stream and the response port are the model's own (log 1, log 4, log 13). -/
def Obligations.StepFaultsOnAnIllegalWord : Prop :=
  ∀ (s : State) (ms : List Move) (w : Word) (ws : List Word) (e : IllegalWord),
    s.env.moves = .exec :: ms → s.cmdst = .idle → s.env.cmds = w :: ws → decode w = .error e →
    step s = .next { s with
      fault := ⟨true, 2, 5, w⟩
      cmdst := .halted
      env := { s.env with moves := ms, cmds := ws, rsp := none } }

/-- While A is Flushing or Halted the port takes nothing: EXEC leaves everything but the schedule as it is, the offered
words stay offered. That the word waits, and that a step which is not enabled leaves the state, are the model's choices
(log 2, log 4). -/
def Obligations.ClosedPortTakesNothing : Prop :=
  ∀ (s : State) (ms : List Move),
    s.env.moves = .exec :: ms → s.cmdst ≠ .idle →
    step s = .next { s with env := { s.env with moves := ms } }

/-- A run of the machine takes the placed moves, in order, each with the effect `perform` gives it. The placed schedule
is the model's own device (log 1). -/
def Obligations.PlacedMovesRunInOrder : Prop :=
  ∀ (ms : List Move) (s : State),
    Sys2Proof.core.run ms.length (placeMoves ms s) = performAll ms (placeMoves [] s)

/-! ## What each command does -/

/-- INIT (42_transport.md R70, R71): with a free lane it claims one of the primary pool, and one of the secondary pool
only where the primary has none; HANDLE, FB and DOUT as the rule says. The draw of the lane is a free value (log 10),
the masks of free lanes an input (log 9). -/
def Obligations.InitClaimsALane : Prop :=
  ∀ (s : State) (pin : BitVec 8),
    s.handle.valid = false →
    (∃ l, l < Config.lanes ∧ (s.env.poolFree.primary.getLsbD l = true ∨ s.env.poolFree.secondary.getLsbD l = true)) →
    ∃ t, exec (.init pin) s = .next t ∧ t.handle.valid = true ∧ t.handle.pin = pin ∧
      t.handle.lane.toNat < Config.lanes ∧
      (if ∃ l, l < Config.lanes ∧ s.env.poolFree.primary.getLsbD l = true then
        t.handle.pool = 0 ∧ s.env.poolFree.primary.getLsbD t.handle.lane.toNat = true
      else t.handle.pool = 1 ∧ s.env.poolFree.secondary.getLsbD t.handle.lane.toNat = true) ∧
      (∀ i < 25, Memory.read t.fb i = some ⟨0, 0, 0⟩) ∧ t.dout = .low ∧
      t.txq = s.txq ∧ t.engCnt = s.engCnt ∧ t.cmdst = s.cmdst ∧ t.wire = s.wire

/-- SET (41_pixelbuffer.md R65): after an INIT, an index 0 to 24 takes the three channels, whatever it held; the other
elements and everything else stay. -/
def Obligations.SetWritesOneElement : Prop :=
  ∀ (s : State) (idx : BitVec 5) (r g b : Byte),
    s.handle.valid = true → idx.toNat < 25 →
    ∃ t, exec (.set idx r g b) s = .next t ∧ Memory.read t.fb idx.toNat = some ⟨r, g, b⟩ ∧
      (∀ j, j ≠ idx.toNat → Memory.read t.fb j = Memory.read s.fb j) ∧ t = { s with fb := t.fb }

/-- GET (41_pixelbuffer.md R66): after an INIT, an index 0 to 24 whose element is `p` answers `p` as r in bits 23:16, g
in 15:8, b in 7:0, in RES and as the response; everything else stays. The response is kept in `env.rsp` (log 13). -/
def Obligations.GetAnswersTheElement : Prop :=
  ∀ (s : State) (idx : BitVec 5) (p : Pixel),
    s.handle.valid = true → idx.toNat < 25 → Memory.read s.fb idx.toNat = some p →
    ∃ t, exec (.get idx) s = .next t ∧
      t.res.extractLsb' 16 8 = p.r ∧ t.res.extractLsb' 8 8 = p.g ∧ t.res.extractLsb' 0 8 = p.b ∧
      t.env.rsp = some t.res ∧ t = { s with res := t.res, env := { s.env with rsp := t.env.rsp } }

/-- CLEAR (41_pixelbuffer.md R67): after an INIT every element becomes (0, 0, 0) and a flush begins at (0, green);
everything else stays. -/
def Obligations.ClearZeroesAndFlushes : Prop :=
  ∀ s : State, s.handle.valid = true →
    ∃ t, exec .clear s = .next t ∧ (∀ i < 25, Memory.read t.fb i = some ⟨0, 0, 0⟩) ∧
      t = { s with fb := t.fb, cmdst := .flushing, scan := ⟨0, .green⟩ }

/-- WRITE (42_transport.md R72): after an INIT a flush begins at (0, green); FB and everything else stay. -/
def Obligations.WriteBeginsAFlush : Prop :=
  ∀ s : State, s.handle.valid = true →
    exec .write s = .next { s with cmdst := .flushing, scan := ⟨0, .green⟩ }

/-- MAP (40_mapper.md R60 to R62): a position on the matrix answers the entry of the table, INIT or no INIT, in RES and
as the response; everything else stays. The response is kept in `env.rsp` (log 13). -/
def Obligations.MapAnswersTheTable : Prop :=
  ∀ (s : State) (row col : BitVec 8), row.toNat < 5 → col.toNat < 5 →
    ∃ k : Nat,
      [24, 23, 22, 21, 20, 15, 16, 17, 18, 19, 14, 13, 12, 11, 10, 5, 6, 7, 8, 9, 4, 3, 2, 1, 0][row.toNat * 5 + col.toNat]? =
        some k ∧
      exec (.map row col) s =
        .next { s with res := BitVec.ofNat 24 k, env := { s.env with rsp := some (BitVec.ofNat 24 k) } }

/-- BSTART (43_status_blinker.md R85): the first one starts the toggler at HIGH and records the level; a second one has no
effect. -/
def Obligations.BstartStartsTheToggler : Prop :=
  ∀ s : State,
    exec .bstart s = .next (if s.blkStarted = true then s else
      { s with blkStarted := true, blkLevel := .high, stat := .high, statlog := s.statlog ++ [.high] })

/-- 40_mapper.md R63: `map` takes the matrix onto 0..24 one to one, and `unmap` is its inverse both ways. -/
def Obligations.MapIsABijection : Prop :=
  (∀ row < 5, ∀ col < 5, mapIndex row col < 25 ∧ unmapIndex (mapIndex row col) = (row, col)) ∧
  (∀ k < 25, (unmapIndex k).1 < 5 ∧ (unmapIndex k).2 < 5 ∧ mapIndex (unmapIndex k).1 (unmapIndex k).2 = k) ∧
  (cells.map fun rc => mapIndex rc.1 rc.2).Perm (List.range 25)

/-! ## Faults (60_exceptions.md) -/

/-- 20_memory.md R31: on an initialised LMD an index 25 to 31 raises sub-cause 1 and neither reads nor writes FB; an index 0
to 24 raises nothing. -/
def Obligations.IndexOutOfRangeFaults : Prop :=
  ∀ (s : State) (idx : BitVec 5) (r g b : Byte), s.handle.valid = true →
    (25 ≤ idx.toNat →
      exec (.set idx r g b) s =
        .next { s with fault := ⟨true, 2, 1, encode (.set idx r g b)⟩, cmdst := .halted } ∧
      exec (.get idx) s = .next { s with fault := ⟨true, 2, 1, encode (.get idx)⟩, cmdst := .halted }) ∧
    (idx.toNat < 25 → Memory.full s.fb →
      (∃ t, exec (.set idx r g b) s = .next t ∧ t.fault = s.fault) ∧
      (∃ t, exec (.get idx) s = .next t ∧ t.fault = s.fault))

/-- 40_mapper.md R60: a row or a column above 4 raises sub-cause 2; RES is not written and no response is returned. -/
def Obligations.CoordinateOutOfRangeFaults : Prop :=
  ∀ (s : State) (row col : BitVec 8), 4 < row.toNat ∨ 4 < col.toNat →
    exec (.map row col) s = .next { s with fault := ⟨true, 2, 2, encode (.map row col)⟩, cmdst := .halted }

/-- 60_exceptions.md R102, sub-cause 4: before an INIT has succeeded SET, GET, CLEAR and WRITE raise it, with the word that
was issued, and nothing is written or submitted. -/
def Obligations.UsedBeforeInitFaults : Prop :=
  ∀ (s : State) (i : Instr), s.handle.valid = false →
    ((∃ idx r g b, i = .set idx r g b) ∨ (∃ idx, i = .get idx) ∨ i = .clear ∨ i = .write) →
    exec i s = .next { s with fault := ⟨true, 2, 4, encode i⟩, cmdst := .halted }

/-- 42_transport.md R80: a second INIT, on any pin, raises sub-cause 3 and changes nothing else. -/
def Obligations.SecondInitFaults : Prop :=
  ∀ (s : State) (pin : BitVec 8), s.handle.valid = true →
    exec (.init pin) s = .next { s with fault := ⟨true, 2, 3, encode (.init pin)⟩, cmdst := .halted }

/-- 60_exceptions.md R101: INIT with no free lane records ResourceExhaustion and halts A; HANDLE.valid stays 0, and from
then on nothing is transmitted whatever moves follow, until a reset. -/
def Obligations.NoFreeLaneIsFatal : Prop :=
  ∀ (s : State) (pin : BitVec 8), Inv s → s.handle.valid = false →
    (∀ l < Config.lanes, s.env.poolFree.primary.getLsbD l = false ∧ s.env.poolFree.secondary.getLsbD l = false) →
    exec (.init pin) s = .next { s with fault := ⟨true, 1, 0, encode (.init pin)⟩, cmdst := .halted } ∧
    ∀ (ms : List Move) (t : State), (∀ m ∈ ms, m ≠ .rst) →
      performAll ms { s with fault := ⟨true, 1, 0, encode (.init pin)⟩, cmdst := .halted } = .next t →
      t.handle.valid = false ∧ t.wire = s.wire

/-- 60_exceptions.md R105: the first condition that applies is the one reported: the encoding, then the initialisation
state, then the operand range, then resource exhaustion. -/
def Obligations.CheckOrder : Prop :=
  (∀ (w : Word) (s : State) (e : IllegalWord), decode w = .error e →
    executeWord w s = .next { s with fault := ⟨true, 2, 5, w⟩, cmdst := .halted }) ∧
  (∀ (s : State) (idx : BitVec 5) (r g b : Byte), s.handle.valid = false → 25 ≤ idx.toNat →
    exec (.set idx r g b) s = .next { s with fault := ⟨true, 2, 4, encode (.set idx r g b)⟩, cmdst := .halted } ∧
    exec (.get idx) s = .next { s with fault := ⟨true, 2, 4, encode (.get idx)⟩, cmdst := .halted }) ∧
  (∀ (s : State), s.handle.valid = false →
    exec .clear s = .next { s with fault := ⟨true, 2, 4, encode .clear⟩, cmdst := .halted } ∧
    exec .write s = .next { s with fault := ⟨true, 2, 4, encode .write⟩, cmdst := .halted }) ∧
  (∀ (s : State) (idx : BitVec 5) (r g b : Byte), s.handle.valid = true → 25 ≤ idx.toNat →
    exec (.set idx r g b) s = .next { s with fault := ⟨true, 2, 1, encode (.set idx r g b)⟩, cmdst := .halted } ∧
    exec (.get idx) s = .next { s with fault := ⟨true, 2, 1, encode (.get idx)⟩, cmdst := .halted }) ∧
  (∀ (s : State) (pin : BitVec 8), s.handle.valid = true → s.env.poolFree = ⟨0, 0⟩ →
    exec (.init pin) s = .next { s with fault := ⟨true, 2, 3, encode (.init pin)⟩, cmdst := .halted }) ∧
  (∀ (s : State) (pin : BitVec 8), s.handle.valid = false → s.env.poolFree = ⟨0, 0⟩ →
    exec (.init pin) s = .next { s with fault := ⟨true, 1, 0, encode (.init pin)⟩, cmdst := .halted }) ∧
  (∀ (s : State) (row col : BitVec 8), 4 < row.toNat ∨ 4 < col.toNat →
    exec (.map row col) s = .next { s with fault := ⟨true, 2, 2, encode (.map row col)⟩, cmdst := .halted })

/-- 60_exceptions.md R106: raising writes FAULT and CMDST and nothing else; from then on A has no step, and the engine
and the toggler go on exactly as they would have. That a step which is not enabled leaves the state as it is, is the
model's choice (log 2). -/
def Obligations.RaiseHaltsOnlyTheExecutor : Prop :=
  ∀ (e : LmdError) (w : Word) (s : State),
    raise e w s = { s with fault := ⟨true, e.cause, e.sub, w⟩, cmdst := .halted } ∧
    perform .exec (raise e w s) = .next (raise e w s) ∧
    perform .submit (raise e w s) = .next (raise e w s) ∧
    perform .emit (raise e w s) = .next (raise e w (emitByte s)) ∧
    perform .latch (raise e w s) = .next (raise e w (latchFrame s)) ∧
    perform .toggle (raise e w s) = .next (raise e w (toggleStat s))

/-- 60_exceptions.md R107: a command that faults has changed nothing but FAULT and CMDST, and no step but EXEC (and the
reset, which clears it) writes FAULT or halts A. -/
def Obligations.FaultsArePrecise : Prop :=
  (∀ (i : Instr) (s t : State), s.cmdst = .idle → exec i s = .next t → t.cmdst = .halted →
    t = { s with fault := ⟨true, t.fault.cause, t.fault.sub, encode i⟩, cmdst := .halted }) ∧
  (∀ (m : Move) (s t : State), m ≠ .exec → m ≠ .rst → perform m s = .next t →
    t.fault = s.fault ∧ (t.cmdst = .halted → s.cmdst = .halted))

/-- 60_exceptions.md R108: no sequence of moves without a reset clears or changes a recorded fault or leaves Halted; a reset
does both. -/
def Obligations.OnlyResetLeavesHalted : Prop :=
  (∀ (ms : List Move) (s t : State), s.cmdst = .halted → (∀ m ∈ ms, m ≠ .rst) → performAll ms s = .next t →
    t.fault = s.fault ∧ t.cmdst = .halted) ∧
  (∀ s : State, ∃ t, perform .rst s = .next t ∧ t.fault.valid = false ∧ t.cmdst = .idle)

/-! ## Frames -/

/-- What a SET leaves, in every next state: all elements but the addressed one, and all state but FB and, on a fault, FAULT
and CMDST. -/
def Obligations.SetFrame : Prop :=
  ∀ (idx : BitVec 5) (r g b : Byte) (s t : State), exec (.set idx r g b) s = .next t →
    (∀ j, j ≠ idx.toNat → Memory.read t.fb j = Memory.read s.fb j) ∧
    t = { s with fb := t.fb, fault := t.fault, cmdst := t.cmdst }

/-- What GET and MAP leave: the whole frame buffer, and all state but RES, the response port and, on a fault, FAULT and
CMDST. A command that faults writes no RES and returns no response. The response is kept in `env.rsp` (log 13). -/
def Obligations.GetAndMapFrame : Prop :=
  ∀ (i : Instr) (s t : State), ((∃ idx, i = .get idx) ∨ (∃ row col, i = .map row col)) → exec i s = .next t →
    (∀ j, Memory.read t.fb j = Memory.read s.fb j) ∧
    t = { s with res := t.res, fault := t.fault, cmdst := t.cmdst, env := { s.env with rsp := t.env.rsp } } ∧
    (t.fault ≠ s.fault → t.res = s.res ∧ t.env.rsp = s.env.rsp)

/-- What CLEAR and WRITE leave in their EXEC step: RES, HANDLE, the queue, the engine, the wire, the toggler; and WRITE every
element of the frame buffer. -/
def Obligations.FlushCommandsFrame : Prop :=
  (∀ s t : State, exec .write s = .next t →
    (∀ j, Memory.read t.fb j = Memory.read s.fb j) ∧
    t = { s with cmdst := t.cmdst, scan := t.scan, fault := t.fault }) ∧
  (∀ s t : State, exec .clear s = .next t →
    t = { s with fb := t.fb, cmdst := t.cmdst, scan := t.scan, fault := t.fault } ∧
    (s.handle.valid = false → ∀ j, Memory.read t.fb j = Memory.read s.fb j))

/-- What INIT leaves: RES, SCAN, the queue, the engine, the wire, the toggler, and the inputs; on a fault the frame
buffer, HANDLE and DOUT too. `draws` counts the free value INIT uses (log 10). -/
def Obligations.InitFrame : Prop :=
  ∀ (pin : BitVec 8) (s t : State), exec (.init pin) s = .next t →
    t = { s with
      handle := t.handle, fb := t.fb, dout := t.dout, fault := t.fault, cmdst := t.cmdst
      env := { s.env with draws := t.env.draws } } ∧
    (t.fault ≠ s.fault →
      t.handle = s.handle ∧ t.dout = s.dout ∧ ∀ j, Memory.read t.fb j = Memory.read s.fb j)

/-- What BSTART leaves: everything but the toggler. -/
def Obligations.BstartFrame : Prop :=
  ∀ s t : State, exec .bstart s = .next t →
    (∀ j, Memory.read t.fb j = Memory.read s.fb j) ∧
    t = { s with blkStarted := t.blkStarted, blkLevel := t.blkLevel, stat := t.stat, statlog := t.statlog }

/-! ## The steps of the agents -/

/-- SUBMIT (42_transport.md R73): enabled while Flushing with room in the queue, whatever STALL is; it pushes the
channel SCAN names and advances SCAN, and after (24, blue) A is Idle. Not enabled it does nothing, and A has no other
step. (log 2.) -/
def Obligations.SubmitPushesOneByte : Prop :=
  (∀ (s : State) (p : Pixel), s.cmdst = .flushing → s.txq.length < Config.txqDepth →
    Memory.read s.fb s.scan.i.val = some p →
    ∃ t, perform .submit s = .next t ∧
      t.txq = s.txq ++ [match s.scan.ch with | .green => p.g | .red => p.r | .blue => p.b] ∧
      (if s.scan.ch = .blue ∧ s.scan.i.val = 24 then t.cmdst = .idle
        else t.cmdst = .flushing ∧
          3 * t.scan.i.val + phaseNumber t.scan.ch = 3 * s.scan.i.val + phaseNumber s.scan.ch + 1) ∧
      t = { s with txq := t.txq, scan := t.scan, cmdst := t.cmdst }) ∧
  (∀ s : State, ¬ (s.cmdst = .flushing ∧ s.txq.length < Config.txqDepth) → perform .submit s = .next s) ∧
  (∀ s : State, s.cmdst = .flushing → perform .exec s = .next s)

/-- EMIT (42_transport.md R74): enabled when initialised, not stalled, a byte waits and fewer than 75 have gone; the
head of the queue becomes the last event of WIRE, its 8 symbols follow on DOUT. Not enabled it does nothing. (log 2;
DOUT low at the end of the step: log 12.) -/
def Obligations.EmitSendsTheHead : Prop :=
  (∀ (s : State) (b : Byte) (q : List Byte),
    s.handle.valid = true → s.env.stall = false → s.txq = b :: q → s.engCnt < 75 →
    perform .emit s =
      .next { s with txq := q, wire := s.wire ++ [.byte b], engCnt := s.engCnt + 1, dout := .low } ∧
    ∀ o, waveform o (s.wire ++ [.byte b]) = waveform o s.wire ++ (byteBits o b).flatMap symbolOf) ∧
  (∀ s : State, ¬ (s.handle.valid = true ∧ s.env.stall = false ∧ s.txq ≠ [] ∧ s.engCnt < 75) →
    perform .emit s = .next s)

/-- LATCH (42_transport.md R75): enabled after exactly 75 bytes and not stalled; it appends RST and starts the count
again. Not enabled it does nothing, and until it is taken EMIT is not enabled. (log 2; DOUT low at the end of the step:
log 12.) -/
def Obligations.LatchEndsTheFrame : Prop :=
  (∀ s : State, s.env.stall = false → s.engCnt = 75 →
    perform .latch s = .next { s with wire := s.wire ++ [.rst], engCnt := 0, dout := .low } ∧
    perform .emit s = .next s) ∧
  (∀ s : State, ¬ (s.env.stall = false ∧ s.engCnt = 75) → perform .latch s = .next s)

/-- TOGGLE (43_status_blinker.md R86): enabled once started, whatever A and E are doing; it flips the level, drives STAT
and records it; after BSTART no other step but a reset writes STAT; so STATLOG alternates from HIGH and STAT is HIGH
exactly when its length is odd. (log 2.) -/
def Obligations.ToggleFlipsTheStatusPin : Prop :=
  (∀ s : State, s.blkStarted = true →
    ∃ l, l ≠ s.blkLevel ∧
      perform .toggle s = .next { s with blkLevel := l, stat := l, statlog := s.statlog ++ [l] }) ∧
  (∀ s : State, s.blkStarted = false → perform .toggle s = .next s) ∧
  (∀ (m : Move) (s t : State), s.blkStarted = true → perform m s = .next t → m ≠ .toggle → m ≠ .rst →
    t.stat = s.stat) ∧
  (∀ s : State, Inv s → s.blkStarted = true →
    s.statlog = alternate .high s.statlog.length ∧ (s.stat = .high ↔ s.statlog.length % 2 = 1))

/-! ## Reset (10_state.md R28, 70_reset_and_hazards.md R120) -/

/-- A reset, from any state, is one step that leaves every field the table values at that value, and ends a stall. What
the unspecified fields hold then is a free value. (log 6, log 7: no clause rests on those values.) -/
def Obligations.ResetLeavesTheTable : Prop :=
  (∀ s : State, ∃ t, perform .rst s = .next t ∧
    t.handle.valid = false ∧ t.fault.valid = false ∧ t.fault.cause = 0 ∧ t.fault.sub = 0 ∧ t.cmdst = .idle ∧
    t.txq = [] ∧ t.engCnt = 0 ∧ t.blkStarted = false ∧ t.wire = [] ∧ t.statlog = [] ∧ t.env.stall = false) ∧
  (State.reset.handle.valid = false ∧ State.reset.fault.valid = false ∧ State.reset.fault.cause = 0 ∧
    State.reset.fault.sub = 0 ∧ State.reset.cmdst = .idle ∧ State.reset.txq = [] ∧ State.reset.engCnt = 0 ∧
    State.reset.blkStarted = false ∧ State.reset.wire = [] ∧ State.reset.statlog = [])

/-! ## The invariant -/

/-- The state after reset is good. -/
def Obligations.ResetIsGood : Prop := Inv State.reset

/-- Every step, whatever the move, takes a good state to a good state. -/
def Obligations.StepKeepsGood : Prop := ∀ s t : State, Inv s → step s = .next t → Inv t

/-- From a good state no step stops: ordinary data never ends a run. The one stop of the model is its own (log 5). -/
def Obligations.GoodStatesNeverStop : Prop := ∀ s : State, Inv s → ∃ t, step s = .next t

/-- Every step keeps the frame buffer in its canonical form. -/
def Obligations.MemoryStaysCanonical : Prop :=
  ∀ s t : State, Memory.wf s.fb → step s = .next t → Memory.wf t.fb

/-! ## Whole-machine rules -/

/-- 41_pixelbuffer.md R68: a move that changes any element is a reset, or the EXEC of an INIT, a SET or a CLEAR. -/
def Obligations.OnlyInitSetClearWriteTheBuffer : Prop :=
  ∀ (m : Move) (s t : State), perform m s = .next t → t.fb ≠ s.fb → m ≠ .rst →
    m = .exec ∧ ∃ i, commandAtPort s = some i ∧
      ((∃ pin, i = .init pin) ∨ (∃ idx r g b, i = .set idx r g b) ∨ i = .clear)

/-- 10_state.md R26: no move but a reset clears HANDLE.valid, changes the claimed lane or stops the toggler. -/
def Obligations.OnlyResetReleasesTheLane : Prop :=
  ∀ (m : Move) (s t : State), perform m s = .next t → m ≠ .rst →
    (s.handle.valid = true → t.handle = s.handle) ∧ (s.blkStarted = true → t.blkStarted = true)

/-- 10_state.md R16: a move that changes RES is a reset, or the EXEC of a GET or a MAP, and the response is that value.
The response is kept in `env.rsp` (log 13). -/
def Obligations.OnlyGetAndMapWriteRes : Prop :=
  ∀ (m : Move) (s t : State), perform m s = .next t → t.res ≠ s.res → m ≠ .rst →
    m = .exec ∧ t.env.rsp = some t.res ∧ ∃ i, commandAtPort s = some i ∧
      ((∃ idx, i = .get idx) ∨ (∃ row col, i = .map row col))

/-- 43_status_blinker.md R88, one way: states that differ only in what the toggler owns stay so under every move, and stop
alike: no step of A or E reads BLK, STAT or STATLOG, and nothing the toggler does disables one. -/
def Obligations.TransportCannotSeeTheToggler : Prop :=
  ∀ (m : Move) (s s' : State), hideToggler s = hideToggler s' →
    seenThrough hideToggler (perform m s) = seenThrough hideToggler (perform m s')

/-- 43_status_blinker.md R88, the other way: what the toggler does next rests on its own state alone, and only TOGGLE, a
reset and the EXEC of BSTART change that state. -/
def Obligations.TogglerCannotSeeTheTransport : Prop :=
  (∀ s s' : State, togglerView s = togglerView s' →
    seenThrough togglerView (perform .toggle s) = seenThrough togglerView (perform .toggle s')) ∧
  (∀ (m : Move) (s t : State), perform m s = .next t → togglerView t ≠ togglerView s → m ≠ .toggle → m ≠ .rst →
    m = .exec ∧ commandAtPort s = some .bstart)

/-- 42_transport.md R77: a stuck flush stays stuck under every sequence of moves without a reset: no fault is recorded, no
byte is queued or sent, FB stays; and the toggler, if started, still toggles. -/
def Obligations.StuckStaysStuck : Prop :=
  ∀ (ms : List Move) (s : State), RunStuck s → (∀ m ∈ ms, m ≠ .rst) →
    ∃ t, performAll ms s = .next t ∧ RunStuck t ∧ t.fault = s.fault ∧ t.txq = s.txq ∧ t.wire = s.wire ∧
      t.engCnt = s.engCnt ∧ t.scan = s.scan ∧ t.fb = s.fb ∧
      (t.blkStarted = true → ∃ u, perform .toggle t = .next u ∧ u.stat ≠ t.blkLevel)

/-- 10_state.md R20: a move that changes WIRE is a reset, an EMIT or a LATCH; EMIT appends the byte at the head of the queue,
LATCH appends RST, and no earlier event changes. -/
def Obligations.OnlyTheEngineWritesTheWire : Prop :=
  ∀ (m : Move) (s t : State), perform m s = .next t → t.wire ≠ s.wire → m ≠ .rst →
    (m = .emit ∧ ∃ b, s.txq.head? = some b ∧ t.wire = s.wire ++ [.byte b]) ∨ (m = .latch ∧ t.wire = s.wire ++ [.rst])

/-- 20_memory.md R41: no move but a reset drops, changes or reorders a byte handed over: the bytes the wire has carried and
then those in the queue stay the sequence submitted so far, and only SUBMIT lengthens it, by one byte. -/
def Obligations.BytesKeepTheirOrder : Prop :=
  ∀ (m : Move) (s t : State), perform m s = .next t → m ≠ .rst →
    wireBytes s.wire <+: submitted s ∧
    (submitted t = submitted s ∨ (m = .submit ∧ ∃ b, submitted t = submitted s ++ [b]))

/-- 20_memory.md R42: in a good state with the engine idle, every byte handed over is on the wire and every frame of it is
latched. 70_reset_and_hazards.md R134: at the end of a run that has FAULTED the engine is idle too, unless it is stalled; and
once a run is over or has FAULTED, no move but a further word from the host and a reset changes what is observed of it. -/
def Obligations.IdleEngineMeansWholeFrames : Prop :=
  (∀ s : State, Inv s → engIdle s = true →
    submitted s = wireBytes s.wire ∧ (wireBytes s.wire).length = 75 * latchCount s.wire) ∧
  (∀ s : State, Inv s → RunFaulted s → s.env.stall = false → engIdle s = true) ∧
  (∀ (m : Move) (s t : State) (o : Observation), Inv s → observe s = some o →
    m ≠ .rst → (∀ w, m ≠ .offer w) → perform m s = .next t → observe t = some o)

/-! ## The flush -/

/-- 20_memory.md R40: while a flush is in progress no move but a reset changes an element. -/
def Obligations.FlushIsASnapshot : Prop :=
  ∀ (m : Move) (s t : State), s.cmdst = .flushing → m ≠ .rst → perform m s = .next t → t.fb = s.fb

/-- 42_transport.md R72, R78: whatever the schedule and whatever TXQ_DEPTH is, a WRITE or a CLEAR that begins with the
engine idle, followed by any moves but a further command and a reset, ends, when A and the engine are idle again, with
exactly one frame added to WIRE: for each element in index order green, red, blue as FB held them when the flush began,
then RST. -/
def Obligations.FlushDeliversTheFrame : Prop :=
  ∀ (i : Instr) (s u t : State) (ms : List Move), (i = .write ∨ i = .clear) →
    s.handle.valid = true → Memory.full s.fb → s.txq = [] → s.engCnt = 0 →
    exec i s = .next u → (∀ m ∈ ms, m ≠ .exec ∧ m ≠ .rst) → performAll ms u = .next t →
    t.cmdst = .idle → engIdle t = true →
    t.fb = u.fb ∧ ∃ px : Nat → Pixel, (∀ k < 25, Memory.read u.fb k = some (px k)) ∧
      t.wire = s.wire ++
        (List.range 25).flatMap (fun k => [.byte (px k).g, .byte (px k).r, .byte (px k).b]) ++ [.rst]

/-- 70_reset_and_hazards.md R133, from any good state, whatever the queue holds and whatever TXQ_DEPTH is. With no stall, 75
rounds of LATCH, EMIT and SUBMIT complete the flush in progress; so does every schedule that is weakly fair to the agents, if
it neither stalls the engine nor resets; and along every weakly fair schedule without a reset, stalled or not, the level of
STAT changes again and again once the toggler has started. Fairness is a property of a schedule, not built into the step
(log 18). -/
def Obligations.FlushCompletesWhenServed : Prop :=
  (∀ s : State, Inv s → s.cmdst = .flushing → s.env.stall = false →
    ∃ t, performAll (serveRounds 75) s = .next t ∧ t.cmdst = .idle ∧ t.fault = s.fault) ∧
  (∀ (s : State) (σ : Nat → Move), Inv s → s.cmdst = .flushing → s.env.stall = false →
    (∀ k, σ k ≠ .stall ∧ σ k ≠ .rst) → WeaklyFair σ s →
    ∃ n t, performAll (firstMoves σ n) s = .next t ∧ t.cmdst = .idle ∧ t.fault = s.fault) ∧
  (∀ (s : State) (σ : Nat → Move), Inv s → s.blkStarted = true → (∀ k, σ k ≠ .rst) → WeaklyFair σ s →
    ∀ n, ∃ k ≥ n, ∃ t u, performAll (firstMoves σ k) s = .next t ∧ performAll (firstMoves σ (k + 1)) s = .next u ∧
      u.stat ≠ t.stat)

/-- 20_memory.md R36: the bits of a byte go out from bit 7 down when BIT_ORDER is msb_first and from bit 0 up when it is
lsb_first. -/
def Obligations.BitsGoOutInBitOrder : Prop :=
  ∀ (b : Byte) (k : Nat), k < 8 →
    (byteBits .msbFirst b)[k]? = some (b.getLsbD (7 - k)) ∧ (byteBits .lsbFirst b)[k]? = some (b.getLsbD k)

/-- 42_transport.md R76: every symbol is a high pulse and then a low time, both symbols last as long, and the 1 has the
longer pulse. That the longer pulse is the 1 is PRESUMED by the spec itself (log 11). -/
def Obligations.SymbolsShareOnePeriod : Prop :=
  ∃ h0 l0 h1 l1 : Nat, symbolOf false = [(.high, h0), (.low, l0)] ∧ symbolOf true = [(.high, h1), (.low, l1)] ∧
    0 < h0 ∧ h0 < h1 ∧ 0 < l1 ∧ h0 + l0 = h1 + l1

/-- 42_transport.md R82: when a frame and its RST follow a history of whole frames, chip `i` of the chain shows the element
`i` of that frame. What a chain does is PRESUMED by the spec itself, from general knowledge (log 22). -/
def Obligations.ChainShowsTheLastFrame : Prop :=
  ∀ (es : List WireEvent) (px : Nat → Pixel), framedCount 0 es = some 0 →
    chainShows (es ++ (List.range 25).flatMap (fun k => [.byte (px k).g, .byte (px k).r, .byte (px k).b]) ++ [.rst]) =
      (List.range 25).map px

/-! ## The host's side -/

/-- 10_state.md R14, R15, R23: the fields of the status words stand at their bits, `cmd_ready` is 1 exactly when Idle, and in
a good state `fault` is 1 exactly when A is Halted. -/
def Obligations.StatusPortsShowTheState : Prop :=
  (∀ s : State,
    (faultRec s).extractLsb' 37 1 = BitVec.ofBool s.fault.valid ∧ (faultRec s).extractLsb' 35 2 = s.fault.cause ∧
    (faultRec s).extractLsb' 32 3 = s.fault.sub ∧ (faultRec s).extractLsb' 0 32 = s.fault.cmd ∧
    (handleOut s).extractLsb' 11 1 = BitVec.ofBool s.handle.valid ∧ (handleOut s).extractLsb' 10 1 = s.handle.pool ∧
    (handleOut s).extractLsb' 8 2 = s.handle.lane ∧ (handleOut s).extractLsb' 0 8 = s.handle.pin ∧
    (cmdReady s = true ↔ s.cmdst = .idle)) ∧
  (∀ s : State, Inv s → (faultOut s = true ↔ s.cmdst = .halted))

/-- 44_frame_renderer.md R92: SETXY of a position on the matrix, on an idle initialised LMD, writes the element the
mapper names and no other, and leaves its index in RES; off the matrix the MAP faults and no SET is issued. The commands
of the expansion are issued back to back (log 16). -/
def Obligations.SetxyWritesTheCell : Prop :=
  ∀ (s : State) (row col : BitVec 8) (r g b : Byte), s.cmdst = .idle → s.handle.valid = true →
    (row.toNat < 5 ∧ col.toNat < 5 →
      ∃ t, runSetxy row col r g b s = .next t ∧ t.cmdst = .idle ∧
        Memory.read t.fb (mapIndex row.toNat col.toNat) = some ⟨r, g, b⟩ ∧
        (∀ j, j ≠ mapIndex row.toNat col.toNat → Memory.read t.fb j = Memory.read s.fb j) ∧
        t.res = BitVec.ofNat 24 (mapIndex row.toNat col.toNat)) ∧
    (4 < row.toNat ∨ 4 < col.toNat →
      ∃ t, runSetxy row col r g b s = .next t ∧ t.fb = s.fb ∧
        t.fault = ⟨true, 2, 2, encode (.map row col)⟩ ∧ t.cmdst = .halted)

/-- 44_frame_renderer.md R93, R96: RENDER of a digit 0 to 9, on an idle initialised LMD and for any bitmap, leaves at
every index the bitmap's pixel of the cell that index lights, and a flush begun; a digit above 9 has no expansion. The
commands of the expansion are issued back to back (log 16). -/
def Obligations.RenderDrawsTheBitmap : Prop :=
  ∀ (bitmap : Nat → Nat → Nat → Nat → Byte) (d : Nat),
    (d ≤ 9 → ∃ ops, expandRender bitmap d = some ops ∧
      ∀ s : State, s.cmdst = .idle → s.handle.valid = true →
        ∃ t, runHostOps ops s = .next t ∧ t.cmdst = .flushing ∧ t.fault = s.fault ∧
          ∀ k < 25, Memory.read t.fb k = some (bitmapPixel bitmap d (unmapIndex k).1 (unmapIndex k).2)) ∧
    (9 < d → expandRender bitmap d = none)

/-- 30_encoding.md R54, R55: the three lines of the spec's program P1, its SETXY example and an illegal word assemble to the
words it prints, and a digit above 9 and an operand that does not fit are refused, whatever the bitmap. That a line holding
only a comment is a line, and assembles to no word, is the model's DESIGN CHOICE, no rule of the spec (log 21). -/
def Obligations.SpecLinesAssemble : Prop :=
  ∀ bitmap : Nat → Nat → Nat → Nat → Byte,
    ["INIT 7", "SET 0, 0x10, 0x20, 0x30", "WRITE", "SETXY 0, 0, 255, 0, 0", "; -- TOGGLE --", "RENDER 10", "INIT 256",
        ".word 0x79000001"].map (fun line => assembleText bitmap line.toList) =
      [some [0x20000007], some [0x40102030], some [0xA0000000], some [0xC0000000, 0x58FF0000], some [], none, none,
        some [0x79000001]]
end

