-- ==== Sys2Proof/Laws/Encode.lean ====
section
/-! SUPPORT. Bit by bit, the words of the encoder (30_encoding.md R48), and the fields read back from them. -/

namespace Sys2Proof

theorem encode_init_bit (pin : BitVec 8) (k : Nat) :
    (encode (.init pin)).getLsbD k =
      if k < 8 then pin.getLsbD k else if k < 29 then false else (0b001#3).getLsbD (k - 29) := by
  refine (BitVec.getLsbD_append (x := 0b001#3 ++ 0#21) (y := pin)).trans ?_
  simp only [BitVec.getLsbD_append, Nat.sub_sub]
  split_ifs <;> first | rfl | omega | simp

theorem encode_set_bit (idx : BitVec 5) (r g b : Byte) (k : Nat) :
    (encode (.set idx r g b)).getLsbD k =
      if k < 8 then b.getLsbD k else if k < 16 then g.getLsbD (k - 8) else if k < 24 then r.getLsbD (k - 16)
      else if k < 29 then idx.getLsbD (k - 24) else (0b010#3).getLsbD (k - 29) := by
  refine (BitVec.getLsbD_append (x := 0b010#3 ++ idx ++ r ++ g) (y := b)).trans ?_
  simp only [BitVec.getLsbD_append, Nat.sub_sub]
  split_ifs <;> first | rfl | omega

theorem encode_get_bit (idx : BitVec 5) (k : Nat) :
    (encode (.get idx)).getLsbD k =
      if k < 24 then false else if k < 29 then idx.getLsbD (k - 24) else (0b011#3).getLsbD (k - 29) := by
  refine (BitVec.getLsbD_append (x := 0b011#3 ++ idx) (y := 0#24)).trans ?_
  simp only [BitVec.getLsbD_append, Nat.sub_sub]
  split_ifs <;> first | rfl | omega | simp

theorem encode_map_bit (row col : BitVec 8) (k : Nat) :
    (encode (.map row col)).getLsbD k =
      if k < 8 then col.getLsbD k else if k < 16 then row.getLsbD (k - 8) else if k < 29 then false
      else (0b110#3).getLsbD (k - 29) := by
  refine (BitVec.getLsbD_append (x := 0b110#3 ++ 0#13 ++ row) (y := col)).trans ?_
  simp only [BitVec.getLsbD_append, Nat.sub_sub]
  split_ifs <;> first | rfl | omega | simp

@[simp] theorem encode_clear_word : encode .clear = 0x80000000#32 := rfl
@[simp] theorem encode_write_word : encode .write = 0xA0000000#32 := rfl
@[simp] theorem encode_bstart_word : encode .bstart = 0xE0000000#32 := rfl

/-- A field of a word is the given value when it is so bit by bit. -/
theorem bits_eq_of_getLsbD {w : Word} {lo len : Nat} {v : BitVec len}
    (h : ∀ k < len, w.getLsbD (lo + k) = v.getLsbD k) : bits w lo len = v := by
  apply BitVec.eq_of_getLsbD_eq
  intro k hk
  simp [bits, hk, h k hk]

/-- A bit of a field is that bit of the word. -/
theorem getLsbD_of_bits {w : Word} {lo len : Nat} {v : BitVec len} (h : bits w lo len = v) (k : Nat) (hk : k < len) :
    w.getLsbD (lo + k) = v.getLsbD k := by
  subst h
  simp [bits, hk]

theorem encode_init_fields (pin : BitVec 8) :
    bits (encode (.init pin)) 29 3 = 0b001#3 ∧ bits (encode (.init pin)) 8 21 = 0 ∧
      bits (encode (.init pin)) 0 8 = pin := by
  refine ⟨?_, ?_, ?_⟩ <;> refine bits_eq_of_getLsbD fun k hk => ?_ <;> rw [encode_init_bit] <;>
    split_ifs <;> first | omega | simp

theorem encode_set_fields (idx : BitVec 5) (r g b : Byte) :
    bits (encode (.set idx r g b)) 29 3 = 0b010#3 ∧ bits (encode (.set idx r g b)) 24 5 = idx ∧
      bits (encode (.set idx r g b)) 16 8 = r ∧ bits (encode (.set idx r g b)) 8 8 = g ∧
      bits (encode (.set idx r g b)) 0 8 = b := by
  refine ⟨?_, ?_, ?_, ?_, ?_⟩ <;> refine bits_eq_of_getLsbD fun k hk => ?_ <;> rw [encode_set_bit] <;>
    split_ifs <;> first | omega | simp

theorem encode_get_fields (idx : BitVec 5) :
    bits (encode (.get idx)) 29 3 = 0b011#3 ∧ bits (encode (.get idx)) 0 24 = 0 ∧
      bits (encode (.get idx)) 24 5 = idx := by
  refine ⟨?_, ?_, ?_⟩ <;> refine bits_eq_of_getLsbD fun k hk => ?_ <;> rw [encode_get_bit] <;>
    split_ifs <;> first | omega | simp

theorem encode_map_fields (row col : BitVec 8) :
    bits (encode (.map row col)) 29 3 = 0b110#3 ∧ bits (encode (.map row col)) 16 13 = 0 ∧
      bits (encode (.map row col)) 8 8 = row ∧ bits (encode (.map row col)) 0 8 = col := by
  refine ⟨?_, ?_, ?_, ?_⟩ <;> refine bits_eq_of_getLsbD fun k hk => ?_ <;> rw [encode_map_bit] <;>
    split_ifs <;> first | omega | simp

end Sys2Proof
end

