-- ==== Sys2Proof/Laws/Memory.lean ====
section
/-! SUPPORT. The laws of the frame buffer: a read after a write, the canonical form, and the zeroed buffer. -/

namespace Sys2Proof.Machine

@[simp] theorem Memory.read_nil (i : Nat) : Memory.read [] i = none := rfl

theorem Memory.read_cons (k : Nat) (p : Pixel) (m : Memory) (i : Nat) :
    Memory.read ((k, p) :: m) i = if k = i then some p else Memory.read m i := rfl

@[simp] theorem Memory.read_write_same (m : Memory) (i : Nat) (p : Pixel) :
    Memory.read (Memory.write m i p) i = some p := by
  induction m with
  | nil => simp [Memory.write, Memory.read]
  | cons e m ih =>
    obtain ⟨k, q⟩ := e
    simp only [Memory.write]
    split_ifs with h1 h2
    · simp [Memory.read]
    · simp [Memory.read]
    · simp [Memory.read, h2, ih]

theorem Memory.read_write_other (m : Memory) (i j : Nat) (p : Pixel) (h : j ≠ i) :
    Memory.read (Memory.write m i p) j = Memory.read m j := by
  induction m with
  | nil => simp [Memory.write, Memory.read, Ne.symm h]
  | cons e m ih =>
    obtain ⟨k, q⟩ := e
    simp only [Memory.write]
    split_ifs with h1 h2
    · simp [Memory.read, Ne.symm h]
    · subst h2; simp [Memory.read, Ne.symm h]
    · simp [Memory.read, ih]

/-- The indices a write leaves are those listed before and the one written. -/
theorem Memory.mem_write {m : Memory} {i : Nat} {p : Pixel} {e : Nat × Pixel} (h : e ∈ Memory.write m i p) :
    e.1 = i ∨ e ∈ m := by
  induction m with
  | nil => simp [Memory.write] at h; simp [h]
  | cons x m ih =>
    obtain ⟨k, q⟩ := x
    simp only [Memory.write] at h
    split_ifs at h with h1 h2
    · rcases List.mem_cons.1 h with rfl | h
      · exact .inl rfl
      · exact .inr h
    · rcases List.mem_cons.1 h with rfl | h
      · exact .inl rfl
      · exact .inr (List.mem_cons_of_mem _ h)
    · rcases List.mem_cons.1 h with rfl | h
      · exact .inr List.mem_cons_self
      · exact (ih h).imp id (List.mem_cons_of_mem _)

theorem Memory.rising_write {m : Memory} (i : Nat) (p : Pixel) (h : (m.map Prod.fst).Pairwise (· < ·)) :
    ((Memory.write m i p).map Prod.fst).Pairwise (· < ·) := by
  induction m with
  | nil => simp [Memory.write]
  | cons x m ih =>
    obtain ⟨k, q⟩ := x
    simp only [List.map_cons, List.pairwise_cons] at h
    simp only [Memory.write]
    split_ifs with h1 h2
    · simp only [List.map_cons, List.pairwise_cons, List.mem_cons]
      refine ⟨?_, h⟩
      rintro a (rfl | ha)
      · exact h1
      · exact h1.trans (h.1 a ha)
    · subst h2
      simpa only [List.map_cons, List.pairwise_cons] using h
    · simp only [List.map_cons, List.pairwise_cons]
      refine ⟨fun a ha => ?_, ih h.2⟩
      obtain ⟨e, he, rfl⟩ := List.mem_map.1 ha
      rcases Memory.mem_write he with hi | he
      · omega
      · exact h.1 _ (List.mem_map_of_mem he)

/-- A write of an element that exists keeps the canonical form. -/
theorem Memory.wf_write {m : Memory} {i : Nat} (p : Pixel) (hi : i < Config.elements) (h : Memory.wf m) :
    Memory.wf (Memory.write m i p) :=
  ⟨Memory.rising_write i p h.1, fun e he => (Memory.mem_write he).elim (fun h' => h' ▸ hi) (h.2 e)⟩

theorem Memory.wf_zeroed : Memory.wf Memory.zeroed := by decide

theorem Memory.wf_reset : Memory.wf State.reset.fb := by decide

theorem Memory.read_zeroed : ∀ i < 25, Memory.read Memory.zeroed i = some ⟨0, 0, 0⟩ := by decide

end Sys2Proof.Machine
end

