-- ==== Sys2Proof/Laws/State.lean ====
section
/-! SUPPORT. What each update of one field does to each field: the updated one takes the value, the others stay. -/

namespace Sys2Proof.Machine

variable (s : State)

@[simp] theorem State.fb_setFb (v : Memory) : (s.setFb v).fb = v := rfl
@[simp] theorem State.handle_setFb (v : Memory) : (s.setFb v).handle = s.handle := rfl
@[simp] theorem State.fault_setFb (v : Memory) : (s.setFb v).fault = s.fault := rfl
@[simp] theorem State.res_setFb (v : Memory) : (s.setFb v).res = s.res := rfl
@[simp] theorem State.cmdst_setFb (v : Memory) : (s.setFb v).cmdst = s.cmdst := rfl
@[simp] theorem State.scan_setFb (v : Memory) : (s.setFb v).scan = s.scan := rfl
@[simp] theorem State.txq_setFb (v : Memory) : (s.setFb v).txq = s.txq := rfl
@[simp] theorem State.engCnt_setFb (v : Memory) : (s.setFb v).engCnt = s.engCnt := rfl
@[simp] theorem State.dout_setFb (v : Memory) : (s.setFb v).dout = s.dout := rfl
@[simp] theorem State.blkStarted_setFb (v : Memory) : (s.setFb v).blkStarted = s.blkStarted := rfl
@[simp] theorem State.blkLevel_setFb (v : Memory) : (s.setFb v).blkLevel = s.blkLevel := rfl
@[simp] theorem State.stat_setFb (v : Memory) : (s.setFb v).stat = s.stat := rfl
@[simp] theorem State.wire_setFb (v : Memory) : (s.setFb v).wire = s.wire := rfl
@[simp] theorem State.statlog_setFb (v : Memory) : (s.setFb v).statlog = s.statlog := rfl
@[simp] theorem State.env_setFb (v : Memory) : (s.setFb v).env = s.env := rfl

@[simp] theorem State.fb_setHandle (v : Handle) : (s.setHandle v).fb = s.fb := rfl
@[simp] theorem State.handle_setHandle (v : Handle) : (s.setHandle v).handle = v := rfl
@[simp] theorem State.fault_setHandle (v : Handle) : (s.setHandle v).fault = s.fault := rfl
@[simp] theorem State.res_setHandle (v : Handle) : (s.setHandle v).res = s.res := rfl
@[simp] theorem State.cmdst_setHandle (v : Handle) : (s.setHandle v).cmdst = s.cmdst := rfl
@[simp] theorem State.scan_setHandle (v : Handle) : (s.setHandle v).scan = s.scan := rfl
@[simp] theorem State.txq_setHandle (v : Handle) : (s.setHandle v).txq = s.txq := rfl
@[simp] theorem State.engCnt_setHandle (v : Handle) : (s.setHandle v).engCnt = s.engCnt := rfl
@[simp] theorem State.dout_setHandle (v : Handle) : (s.setHandle v).dout = s.dout := rfl
@[simp] theorem State.blkStarted_setHandle (v : Handle) : (s.setHandle v).blkStarted = s.blkStarted := rfl
@[simp] theorem State.blkLevel_setHandle (v : Handle) : (s.setHandle v).blkLevel = s.blkLevel := rfl
@[simp] theorem State.stat_setHandle (v : Handle) : (s.setHandle v).stat = s.stat := rfl
@[simp] theorem State.wire_setHandle (v : Handle) : (s.setHandle v).wire = s.wire := rfl
@[simp] theorem State.statlog_setHandle (v : Handle) : (s.setHandle v).statlog = s.statlog := rfl
@[simp] theorem State.env_setHandle (v : Handle) : (s.setHandle v).env = s.env := rfl

@[simp] theorem State.fb_setFault (v : FaultRecord) : (s.setFault v).fb = s.fb := rfl
@[simp] theorem State.handle_setFault (v : FaultRecord) : (s.setFault v).handle = s.handle := rfl
@[simp] theorem State.fault_setFault (v : FaultRecord) : (s.setFault v).fault = v := rfl
@[simp] theorem State.res_setFault (v : FaultRecord) : (s.setFault v).res = s.res := rfl
@[simp] theorem State.cmdst_setFault (v : FaultRecord) : (s.setFault v).cmdst = s.cmdst := rfl
@[simp] theorem State.scan_setFault (v : FaultRecord) : (s.setFault v).scan = s.scan := rfl
@[simp] theorem State.txq_setFault (v : FaultRecord) : (s.setFault v).txq = s.txq := rfl
@[simp] theorem State.engCnt_setFault (v : FaultRecord) : (s.setFault v).engCnt = s.engCnt := rfl
@[simp] theorem State.dout_setFault (v : FaultRecord) : (s.setFault v).dout = s.dout := rfl
@[simp] theorem State.blkStarted_setFault (v : FaultRecord) : (s.setFault v).blkStarted = s.blkStarted := rfl
@[simp] theorem State.blkLevel_setFault (v : FaultRecord) : (s.setFault v).blkLevel = s.blkLevel := rfl
@[simp] theorem State.stat_setFault (v : FaultRecord) : (s.setFault v).stat = s.stat := rfl
@[simp] theorem State.wire_setFault (v : FaultRecord) : (s.setFault v).wire = s.wire := rfl
@[simp] theorem State.statlog_setFault (v : FaultRecord) : (s.setFault v).statlog = s.statlog := rfl
@[simp] theorem State.env_setFault (v : FaultRecord) : (s.setFault v).env = s.env := rfl

@[simp] theorem State.fb_setRes (v : BitVec 24) : (s.setRes v).fb = s.fb := rfl
@[simp] theorem State.handle_setRes (v : BitVec 24) : (s.setRes v).handle = s.handle := rfl
@[simp] theorem State.fault_setRes (v : BitVec 24) : (s.setRes v).fault = s.fault := rfl
@[simp] theorem State.res_setRes (v : BitVec 24) : (s.setRes v).res = v := rfl
@[simp] theorem State.cmdst_setRes (v : BitVec 24) : (s.setRes v).cmdst = s.cmdst := rfl
@[simp] theorem State.scan_setRes (v : BitVec 24) : (s.setRes v).scan = s.scan := rfl
@[simp] theorem State.txq_setRes (v : BitVec 24) : (s.setRes v).txq = s.txq := rfl
@[simp] theorem State.engCnt_setRes (v : BitVec 24) : (s.setRes v).engCnt = s.engCnt := rfl
@[simp] theorem State.dout_setRes (v : BitVec 24) : (s.setRes v).dout = s.dout := rfl
@[simp] theorem State.blkStarted_setRes (v : BitVec 24) : (s.setRes v).blkStarted = s.blkStarted := rfl
@[simp] theorem State.blkLevel_setRes (v : BitVec 24) : (s.setRes v).blkLevel = s.blkLevel := rfl
@[simp] theorem State.stat_setRes (v : BitVec 24) : (s.setRes v).stat = s.stat := rfl
@[simp] theorem State.wire_setRes (v : BitVec 24) : (s.setRes v).wire = s.wire := rfl
@[simp] theorem State.statlog_setRes (v : BitVec 24) : (s.setRes v).statlog = s.statlog := rfl
@[simp] theorem State.env_setRes (v : BitVec 24) : (s.setRes v).env = s.env := rfl

@[simp] theorem State.fb_setCmdst (v : CmdState) : (s.setCmdst v).fb = s.fb := rfl
@[simp] theorem State.handle_setCmdst (v : CmdState) : (s.setCmdst v).handle = s.handle := rfl
@[simp] theorem State.fault_setCmdst (v : CmdState) : (s.setCmdst v).fault = s.fault := rfl
@[simp] theorem State.res_setCmdst (v : CmdState) : (s.setCmdst v).res = s.res := rfl
@[simp] theorem State.cmdst_setCmdst (v : CmdState) : (s.setCmdst v).cmdst = v := rfl
@[simp] theorem State.scan_setCmdst (v : CmdState) : (s.setCmdst v).scan = s.scan := rfl
@[simp] theorem State.txq_setCmdst (v : CmdState) : (s.setCmdst v).txq = s.txq := rfl
@[simp] theorem State.engCnt_setCmdst (v : CmdState) : (s.setCmdst v).engCnt = s.engCnt := rfl
@[simp] theorem State.dout_setCmdst (v : CmdState) : (s.setCmdst v).dout = s.dout := rfl
@[simp] theorem State.blkStarted_setCmdst (v : CmdState) : (s.setCmdst v).blkStarted = s.blkStarted := rfl
@[simp] theorem State.blkLevel_setCmdst (v : CmdState) : (s.setCmdst v).blkLevel = s.blkLevel := rfl
@[simp] theorem State.stat_setCmdst (v : CmdState) : (s.setCmdst v).stat = s.stat := rfl
@[simp] theorem State.wire_setCmdst (v : CmdState) : (s.setCmdst v).wire = s.wire := rfl
@[simp] theorem State.statlog_setCmdst (v : CmdState) : (s.setCmdst v).statlog = s.statlog := rfl
@[simp] theorem State.env_setCmdst (v : CmdState) : (s.setCmdst v).env = s.env := rfl

@[simp] theorem State.fb_setScan (v : Scan) : (s.setScan v).fb = s.fb := rfl
@[simp] theorem State.handle_setScan (v : Scan) : (s.setScan v).handle = s.handle := rfl
@[simp] theorem State.fault_setScan (v : Scan) : (s.setScan v).fault = s.fault := rfl
@[simp] theorem State.res_setScan (v : Scan) : (s.setScan v).res = s.res := rfl
@[simp] theorem State.cmdst_setScan (v : Scan) : (s.setScan v).cmdst = s.cmdst := rfl
@[simp] theorem State.scan_setScan (v : Scan) : (s.setScan v).scan = v := rfl
@[simp] theorem State.txq_setScan (v : Scan) : (s.setScan v).txq = s.txq := rfl
@[simp] theorem State.engCnt_setScan (v : Scan) : (s.setScan v).engCnt = s.engCnt := rfl
@[simp] theorem State.dout_setScan (v : Scan) : (s.setScan v).dout = s.dout := rfl
@[simp] theorem State.blkStarted_setScan (v : Scan) : (s.setScan v).blkStarted = s.blkStarted := rfl
@[simp] theorem State.blkLevel_setScan (v : Scan) : (s.setScan v).blkLevel = s.blkLevel := rfl
@[simp] theorem State.stat_setScan (v : Scan) : (s.setScan v).stat = s.stat := rfl
@[simp] theorem State.wire_setScan (v : Scan) : (s.setScan v).wire = s.wire := rfl
@[simp] theorem State.statlog_setScan (v : Scan) : (s.setScan v).statlog = s.statlog := rfl
@[simp] theorem State.env_setScan (v : Scan) : (s.setScan v).env = s.env := rfl

@[simp] theorem State.fb_setTxq (v : List Byte) : (s.setTxq v).fb = s.fb := rfl
@[simp] theorem State.handle_setTxq (v : List Byte) : (s.setTxq v).handle = s.handle := rfl
@[simp] theorem State.fault_setTxq (v : List Byte) : (s.setTxq v).fault = s.fault := rfl
@[simp] theorem State.res_setTxq (v : List Byte) : (s.setTxq v).res = s.res := rfl
@[simp] theorem State.cmdst_setTxq (v : List Byte) : (s.setTxq v).cmdst = s.cmdst := rfl
@[simp] theorem State.scan_setTxq (v : List Byte) : (s.setTxq v).scan = s.scan := rfl
@[simp] theorem State.txq_setTxq (v : List Byte) : (s.setTxq v).txq = v := rfl
@[simp] theorem State.engCnt_setTxq (v : List Byte) : (s.setTxq v).engCnt = s.engCnt := rfl
@[simp] theorem State.dout_setTxq (v : List Byte) : (s.setTxq v).dout = s.dout := rfl
@[simp] theorem State.blkStarted_setTxq (v : List Byte) : (s.setTxq v).blkStarted = s.blkStarted := rfl
@[simp] theorem State.blkLevel_setTxq (v : List Byte) : (s.setTxq v).blkLevel = s.blkLevel := rfl
@[simp] theorem State.stat_setTxq (v : List Byte) : (s.setTxq v).stat = s.stat := rfl
@[simp] theorem State.wire_setTxq (v : List Byte) : (s.setTxq v).wire = s.wire := rfl
@[simp] theorem State.statlog_setTxq (v : List Byte) : (s.setTxq v).statlog = s.statlog := rfl
@[simp] theorem State.env_setTxq (v : List Byte) : (s.setTxq v).env = s.env := rfl

@[simp] theorem State.fb_setEngCnt (v : Nat) : (s.setEngCnt v).fb = s.fb := rfl
@[simp] theorem State.handle_setEngCnt (v : Nat) : (s.setEngCnt v).handle = s.handle := rfl
@[simp] theorem State.fault_setEngCnt (v : Nat) : (s.setEngCnt v).fault = s.fault := rfl
@[simp] theorem State.res_setEngCnt (v : Nat) : (s.setEngCnt v).res = s.res := rfl
@[simp] theorem State.cmdst_setEngCnt (v : Nat) : (s.setEngCnt v).cmdst = s.cmdst := rfl
@[simp] theorem State.scan_setEngCnt (v : Nat) : (s.setEngCnt v).scan = s.scan := rfl
@[simp] theorem State.txq_setEngCnt (v : Nat) : (s.setEngCnt v).txq = s.txq := rfl
@[simp] theorem State.engCnt_setEngCnt (v : Nat) : (s.setEngCnt v).engCnt = v := rfl
@[simp] theorem State.dout_setEngCnt (v : Nat) : (s.setEngCnt v).dout = s.dout := rfl
@[simp] theorem State.blkStarted_setEngCnt (v : Nat) : (s.setEngCnt v).blkStarted = s.blkStarted := rfl
@[simp] theorem State.blkLevel_setEngCnt (v : Nat) : (s.setEngCnt v).blkLevel = s.blkLevel := rfl
@[simp] theorem State.stat_setEngCnt (v : Nat) : (s.setEngCnt v).stat = s.stat := rfl
@[simp] theorem State.wire_setEngCnt (v : Nat) : (s.setEngCnt v).wire = s.wire := rfl
@[simp] theorem State.statlog_setEngCnt (v : Nat) : (s.setEngCnt v).statlog = s.statlog := rfl
@[simp] theorem State.env_setEngCnt (v : Nat) : (s.setEngCnt v).env = s.env := rfl

@[simp] theorem State.fb_setDout (v : Level) : (s.setDout v).fb = s.fb := rfl
@[simp] theorem State.handle_setDout (v : Level) : (s.setDout v).handle = s.handle := rfl
@[simp] theorem State.fault_setDout (v : Level) : (s.setDout v).fault = s.fault := rfl
@[simp] theorem State.res_setDout (v : Level) : (s.setDout v).res = s.res := rfl
@[simp] theorem State.cmdst_setDout (v : Level) : (s.setDout v).cmdst = s.cmdst := rfl
@[simp] theorem State.scan_setDout (v : Level) : (s.setDout v).scan = s.scan := rfl
@[simp] theorem State.txq_setDout (v : Level) : (s.setDout v).txq = s.txq := rfl
@[simp] theorem State.engCnt_setDout (v : Level) : (s.setDout v).engCnt = s.engCnt := rfl
@[simp] theorem State.dout_setDout (v : Level) : (s.setDout v).dout = v := rfl
@[simp] theorem State.blkStarted_setDout (v : Level) : (s.setDout v).blkStarted = s.blkStarted := rfl
@[simp] theorem State.blkLevel_setDout (v : Level) : (s.setDout v).blkLevel = s.blkLevel := rfl
@[simp] theorem State.stat_setDout (v : Level) : (s.setDout v).stat = s.stat := rfl
@[simp] theorem State.wire_setDout (v : Level) : (s.setDout v).wire = s.wire := rfl
@[simp] theorem State.statlog_setDout (v : Level) : (s.setDout v).statlog = s.statlog := rfl
@[simp] theorem State.env_setDout (v : Level) : (s.setDout v).env = s.env := rfl

@[simp] theorem State.fb_setBlkStarted (v : Bool) : (s.setBlkStarted v).fb = s.fb := rfl
@[simp] theorem State.handle_setBlkStarted (v : Bool) : (s.setBlkStarted v).handle = s.handle := rfl
@[simp] theorem State.fault_setBlkStarted (v : Bool) : (s.setBlkStarted v).fault = s.fault := rfl
@[simp] theorem State.res_setBlkStarted (v : Bool) : (s.setBlkStarted v).res = s.res := rfl
@[simp] theorem State.cmdst_setBlkStarted (v : Bool) : (s.setBlkStarted v).cmdst = s.cmdst := rfl
@[simp] theorem State.scan_setBlkStarted (v : Bool) : (s.setBlkStarted v).scan = s.scan := rfl
@[simp] theorem State.txq_setBlkStarted (v : Bool) : (s.setBlkStarted v).txq = s.txq := rfl
@[simp] theorem State.engCnt_setBlkStarted (v : Bool) : (s.setBlkStarted v).engCnt = s.engCnt := rfl
@[simp] theorem State.dout_setBlkStarted (v : Bool) : (s.setBlkStarted v).dout = s.dout := rfl
@[simp] theorem State.blkStarted_setBlkStarted (v : Bool) : (s.setBlkStarted v).blkStarted = v := rfl
@[simp] theorem State.blkLevel_setBlkStarted (v : Bool) : (s.setBlkStarted v).blkLevel = s.blkLevel := rfl
@[simp] theorem State.stat_setBlkStarted (v : Bool) : (s.setBlkStarted v).stat = s.stat := rfl
@[simp] theorem State.wire_setBlkStarted (v : Bool) : (s.setBlkStarted v).wire = s.wire := rfl
@[simp] theorem State.statlog_setBlkStarted (v : Bool) : (s.setBlkStarted v).statlog = s.statlog := rfl
@[simp] theorem State.env_setBlkStarted (v : Bool) : (s.setBlkStarted v).env = s.env := rfl

@[simp] theorem State.fb_setBlkLevel (v : Level) : (s.setBlkLevel v).fb = s.fb := rfl
@[simp] theorem State.handle_setBlkLevel (v : Level) : (s.setBlkLevel v).handle = s.handle := rfl
@[simp] theorem State.fault_setBlkLevel (v : Level) : (s.setBlkLevel v).fault = s.fault := rfl
@[simp] theorem State.res_setBlkLevel (v : Level) : (s.setBlkLevel v).res = s.res := rfl
@[simp] theorem State.cmdst_setBlkLevel (v : Level) : (s.setBlkLevel v).cmdst = s.cmdst := rfl
@[simp] theorem State.scan_setBlkLevel (v : Level) : (s.setBlkLevel v).scan = s.scan := rfl
@[simp] theorem State.txq_setBlkLevel (v : Level) : (s.setBlkLevel v).txq = s.txq := rfl
@[simp] theorem State.engCnt_setBlkLevel (v : Level) : (s.setBlkLevel v).engCnt = s.engCnt := rfl
@[simp] theorem State.dout_setBlkLevel (v : Level) : (s.setBlkLevel v).dout = s.dout := rfl
@[simp] theorem State.blkStarted_setBlkLevel (v : Level) : (s.setBlkLevel v).blkStarted = s.blkStarted := rfl
@[simp] theorem State.blkLevel_setBlkLevel (v : Level) : (s.setBlkLevel v).blkLevel = v := rfl
@[simp] theorem State.stat_setBlkLevel (v : Level) : (s.setBlkLevel v).stat = s.stat := rfl
@[simp] theorem State.wire_setBlkLevel (v : Level) : (s.setBlkLevel v).wire = s.wire := rfl
@[simp] theorem State.statlog_setBlkLevel (v : Level) : (s.setBlkLevel v).statlog = s.statlog := rfl
@[simp] theorem State.env_setBlkLevel (v : Level) : (s.setBlkLevel v).env = s.env := rfl

@[simp] theorem State.fb_setStat (v : Level) : (s.setStat v).fb = s.fb := rfl
@[simp] theorem State.handle_setStat (v : Level) : (s.setStat v).handle = s.handle := rfl
@[simp] theorem State.fault_setStat (v : Level) : (s.setStat v).fault = s.fault := rfl
@[simp] theorem State.res_setStat (v : Level) : (s.setStat v).res = s.res := rfl
@[simp] theorem State.cmdst_setStat (v : Level) : (s.setStat v).cmdst = s.cmdst := rfl
@[simp] theorem State.scan_setStat (v : Level) : (s.setStat v).scan = s.scan := rfl
@[simp] theorem State.txq_setStat (v : Level) : (s.setStat v).txq = s.txq := rfl
@[simp] theorem State.engCnt_setStat (v : Level) : (s.setStat v).engCnt = s.engCnt := rfl
@[simp] theorem State.dout_setStat (v : Level) : (s.setStat v).dout = s.dout := rfl
@[simp] theorem State.blkStarted_setStat (v : Level) : (s.setStat v).blkStarted = s.blkStarted := rfl
@[simp] theorem State.blkLevel_setStat (v : Level) : (s.setStat v).blkLevel = s.blkLevel := rfl
@[simp] theorem State.stat_setStat (v : Level) : (s.setStat v).stat = v := rfl
@[simp] theorem State.wire_setStat (v : Level) : (s.setStat v).wire = s.wire := rfl
@[simp] theorem State.statlog_setStat (v : Level) : (s.setStat v).statlog = s.statlog := rfl
@[simp] theorem State.env_setStat (v : Level) : (s.setStat v).env = s.env := rfl

@[simp] theorem State.fb_setWire (v : List WireEvent) : (s.setWire v).fb = s.fb := rfl
@[simp] theorem State.handle_setWire (v : List WireEvent) : (s.setWire v).handle = s.handle := rfl
@[simp] theorem State.fault_setWire (v : List WireEvent) : (s.setWire v).fault = s.fault := rfl
@[simp] theorem State.res_setWire (v : List WireEvent) : (s.setWire v).res = s.res := rfl
@[simp] theorem State.cmdst_setWire (v : List WireEvent) : (s.setWire v).cmdst = s.cmdst := rfl
@[simp] theorem State.scan_setWire (v : List WireEvent) : (s.setWire v).scan = s.scan := rfl
@[simp] theorem State.txq_setWire (v : List WireEvent) : (s.setWire v).txq = s.txq := rfl
@[simp] theorem State.engCnt_setWire (v : List WireEvent) : (s.setWire v).engCnt = s.engCnt := rfl
@[simp] theorem State.dout_setWire (v : List WireEvent) : (s.setWire v).dout = s.dout := rfl
@[simp] theorem State.blkStarted_setWire (v : List WireEvent) : (s.setWire v).blkStarted = s.blkStarted := rfl
@[simp] theorem State.blkLevel_setWire (v : List WireEvent) : (s.setWire v).blkLevel = s.blkLevel := rfl
@[simp] theorem State.stat_setWire (v : List WireEvent) : (s.setWire v).stat = s.stat := rfl
@[simp] theorem State.wire_setWire (v : List WireEvent) : (s.setWire v).wire = v := rfl
@[simp] theorem State.statlog_setWire (v : List WireEvent) : (s.setWire v).statlog = s.statlog := rfl
@[simp] theorem State.env_setWire (v : List WireEvent) : (s.setWire v).env = s.env := rfl

@[simp] theorem State.fb_setStatlog (v : List Level) : (s.setStatlog v).fb = s.fb := rfl
@[simp] theorem State.handle_setStatlog (v : List Level) : (s.setStatlog v).handle = s.handle := rfl
@[simp] theorem State.fault_setStatlog (v : List Level) : (s.setStatlog v).fault = s.fault := rfl
@[simp] theorem State.res_setStatlog (v : List Level) : (s.setStatlog v).res = s.res := rfl
@[simp] theorem State.cmdst_setStatlog (v : List Level) : (s.setStatlog v).cmdst = s.cmdst := rfl
@[simp] theorem State.scan_setStatlog (v : List Level) : (s.setStatlog v).scan = s.scan := rfl
@[simp] theorem State.txq_setStatlog (v : List Level) : (s.setStatlog v).txq = s.txq := rfl
@[simp] theorem State.engCnt_setStatlog (v : List Level) : (s.setStatlog v).engCnt = s.engCnt := rfl
@[simp] theorem State.dout_setStatlog (v : List Level) : (s.setStatlog v).dout = s.dout := rfl
@[simp] theorem State.blkStarted_setStatlog (v : List Level) : (s.setStatlog v).blkStarted = s.blkStarted := rfl
@[simp] theorem State.blkLevel_setStatlog (v : List Level) : (s.setStatlog v).blkLevel = s.blkLevel := rfl
@[simp] theorem State.stat_setStatlog (v : List Level) : (s.setStatlog v).stat = s.stat := rfl
@[simp] theorem State.wire_setStatlog (v : List Level) : (s.setStatlog v).wire = s.wire := rfl
@[simp] theorem State.statlog_setStatlog (v : List Level) : (s.setStatlog v).statlog = v := rfl
@[simp] theorem State.env_setStatlog (v : List Level) : (s.setStatlog v).env = s.env := rfl

@[simp] theorem State.fb_setEnv (v : Env) : (s.setEnv v).fb = s.fb := rfl
@[simp] theorem State.handle_setEnv (v : Env) : (s.setEnv v).handle = s.handle := rfl
@[simp] theorem State.fault_setEnv (v : Env) : (s.setEnv v).fault = s.fault := rfl
@[simp] theorem State.res_setEnv (v : Env) : (s.setEnv v).res = s.res := rfl
@[simp] theorem State.cmdst_setEnv (v : Env) : (s.setEnv v).cmdst = s.cmdst := rfl
@[simp] theorem State.scan_setEnv (v : Env) : (s.setEnv v).scan = s.scan := rfl
@[simp] theorem State.txq_setEnv (v : Env) : (s.setEnv v).txq = s.txq := rfl
@[simp] theorem State.engCnt_setEnv (v : Env) : (s.setEnv v).engCnt = s.engCnt := rfl
@[simp] theorem State.dout_setEnv (v : Env) : (s.setEnv v).dout = s.dout := rfl
@[simp] theorem State.blkStarted_setEnv (v : Env) : (s.setEnv v).blkStarted = s.blkStarted := rfl
@[simp] theorem State.blkLevel_setEnv (v : Env) : (s.setEnv v).blkLevel = s.blkLevel := rfl
@[simp] theorem State.stat_setEnv (v : Env) : (s.setEnv v).stat = s.stat := rfl
@[simp] theorem State.wire_setEnv (v : Env) : (s.setEnv v).wire = s.wire := rfl
@[simp] theorem State.statlog_setEnv (v : Env) : (s.setEnv v).statlog = s.statlog := rfl
@[simp] theorem State.env_setEnv (v : Env) : (s.setEnv v).env = v := rfl

end Sys2Proof.Machine
end

