-- ==== Sys2Proof/Laws/Ops.lean ====
section
/-! SUPPORT. Each shared operation said once: as a record update, or as the list of everything it can do. Proofs cite these
and do not unfold the operations. -/

namespace Sys2Proof.Machine

theorem raise_eq (e : LmdError) (w : Word) (s : State) :
    raise e w s = { s with fault := ⟨true, e.cause, e.sub, w⟩, cmdst := .halted } := rfl

theorem respond_eq (v : BitVec 24) (s : State) :
    respond v s = { s with res := v, env := { s.env with rsp := some v } } := rfl

theorem beginFlush_eq (s : State) : beginFlush s = { s with cmdst := .flushing, scan := ⟨0, .green⟩ } := rfl

theorem acceptCommand_eq (ws : List Word) (s : State) :
    acceptCommand ws s = { s with env := { s.env with cmds := ws, rsp := none } } := rfl

theorem driveStat_eq (l : Level) (s : State) :
    driveStat l s = { s with blkLevel := l, stat := l, statlog := s.statlog ++ [l] } := rfl

theorem takeLane_eq (pool : BitVec 1) (lane : BitVec 2) (pin : Byte) (s : State) :
    takeLane pool lane pin s =
      { s with
        handle := ⟨true, pool, lane, pin⟩, fb := Memory.zeroed, dout := .low
        env := { s.env with draws := s.env.draws + 1 } } := rfl

theorem flipLevel_ne (l : Level) : flipLevel l ≠ l := by cases l <;> decide

/-! The claim of a lane (42_transport.md R71). -/

theorem lanes_pos : 0 < Config.lanes := Nat.succ_pos _

theorem lanes_le_four : Config.lanes ≤ 4 := by
  unfold Config.lanes; omega

theorem txqDepth_pos : 0 < Config.txqDepth := Nat.succ_pos _

theorem mem_freeLanes {lanes : Nat} {mask : BitVec 4} {l : Nat} :
    l ∈ freeLanes lanes mask ↔ l < 4 ∧ l < lanes ∧ mask.getLsbD l = true := by
  have four : l ∈ [0, 1, 2, 3] ↔ l < 4 := by simp; omega
  simp only [freeLanes, List.mem_filter, four, Bool.and_eq_true, decide_eq_true_eq]

theorem drawLane_mem (n l : Nat) (ls : List Nat) : drawLane n l ls ∈ l :: ls := by
  have h : n % (ls.length + 1) < (l :: ls).length := by simpa using Nat.mod_lt _ (Nat.succ_pos _)
  rw [drawLane, List.getD_eq_getElem _ _ h]
  exact List.getElem_mem _

/-- The lane drawn from a pool's free lanes is one of them, and its number fits the two bits of HANDLE.lane. -/
theorem drawLane_free {lanes n l : Nat} {mask : BitVec 4} {ls : List Nat} (h : freeLanes lanes mask = l :: ls) :
    (BitVec.ofNat 2 (drawLane n l ls)).toNat < lanes ∧
      mask.getLsbD (BitVec.ofNat 2 (drawLane n l ls)).toNat = true := by
  have hm := drawLane_mem n l ls
  rw [← h, mem_freeLanes] at hm
  rw [BitVec.toNat_ofNat, Nat.mod_eq_of_lt (by omega)]
  exact hm.2

/-- Everything a claim can answer: a free lane of the primary pool; where that has none, a free lane of the secondary pool;
where neither has one, nothing. -/
theorem claimLane_cases {lanes : Nat} (n : Nat) (p : Pools) (h4 : lanes ≤ 4) :
    (∃ lane : BitVec 2, claimLane lanes n p = some (0, lane) ∧ lane.toNat < lanes ∧
      p.primary.getLsbD lane.toNat = true) ∨
    (∃ lane : BitVec 2, claimLane lanes n p = some (1, lane) ∧ lane.toNat < lanes ∧
      p.secondary.getLsbD lane.toNat = true ∧ ∀ l < lanes, p.primary.getLsbD l = false) ∨
    (claimLane lanes n p = none ∧ ∀ l < lanes, p.primary.getLsbD l = false ∧ p.secondary.getLsbD l = false) := by
  have empty : ∀ {mask : BitVec 4}, freeLanes lanes mask = [] → ∀ l < lanes, mask.getLsbD l = false := by
    intro mask h l hl
    by_contra hc
    have hm : l ∈ freeLanes lanes mask := mem_freeLanes.2 ⟨by omega, hl, by simpa using hc⟩
    simp [h] at hm
  cases h1 : freeLanes lanes p.primary with
  | cons l ls => exact .inl ⟨BitVec.ofNat 2 (drawLane n l ls), by simp only [claimLane, h1], drawLane_free h1⟩
  | nil =>
    cases h2 : freeLanes lanes p.secondary with
    | cons l ls =>
      exact .inr (.inl ⟨BitVec.ofNat 2 (drawLane n l ls), by simp only [claimLane, h1, h2], (drawLane_free h2).1,
        (drawLane_free h2).2, empty h1⟩)
    | nil => exact .inr (.inr ⟨by simp only [claimLane, h1, h2], fun l hl => ⟨empty h1 l hl, empty h2 l hl⟩⟩)

/-! What each command can do. -/

theorem execInit_cases (pin : BitVec 8) (s : State) :
    (s.handle.valid = true ∧ execInit pin s = .next (raise .secondInit (encode (.init pin)) s)) ∨
    (s.handle.valid = false ∧ ∃ pool lane,
      claimLane Config.lanes (Config.pickLane s.env.draws) s.env.poolFree = some (pool, lane) ∧
      execInit pin s = .next (takeLane pool lane pin s)) ∨
    (s.handle.valid = false ∧ claimLane Config.lanes (Config.pickLane s.env.draws) s.env.poolFree = none ∧
      execInit pin s = .next (raise .resourceExhaustion (encode (.init pin)) s)) := by
  cases hv : s.handle.valid
  · cases hc : claimLane Config.lanes (Config.pickLane s.env.draws) s.env.poolFree with
    | none => exact .inr (.inr ⟨rfl, rfl, by simp [execInit, initWith, hv, hc, raiseNext]⟩)
    | some pl => exact .inr (.inl ⟨rfl, pl.1, pl.2, rfl, by simp [execInit, initWith, hv, hc]⟩)
  · exact .inl ⟨rfl, by simp [execInit, initWith, hv, raiseNext]⟩

theorem execSet_cases (idx : BitVec 5) (r g b : Byte) (s : State) :
    (s.handle.valid = false ∧ execSet idx r g b s = .next (raise .usedBeforeInit (encode (.set idx r g b)) s)) ∨
    (s.handle.valid = true ∧ idx.toNat < 25 ∧
      execSet idx r g b s = .next { s with fb := Memory.write s.fb idx.toNat ⟨r, g, b⟩ }) ∨
    (s.handle.valid = true ∧ 25 ≤ idx.toNat ∧
      execSet idx r g b s = .next (raise .indexOutOfRange (encode (.set idx r g b)) s)) := by
  cases hv : s.handle.valid
  · exact .inl ⟨rfl, by simp [execSet, hv, raiseNext]⟩
  · by_cases hi : idx.toNat < 25
    · exact .inr (.inl ⟨rfl, hi, by simp [execSet, hv, indexInRange, Config.elements, hi, State.setFb]⟩)
    · exact .inr (.inr ⟨rfl, by omega, by simp [execSet, hv, indexInRange, Config.elements, hi, raiseNext]⟩)

theorem execGet_cases (idx : BitVec 5) (s : State) :
    (s.handle.valid = false ∧ execGet idx s = .next (raise .usedBeforeInit (encode (.get idx)) s)) ∨
    (s.handle.valid = true ∧ idx.toNat < 25 ∧ ∃ p, Memory.read s.fb idx.toNat = some p ∧
      execGet idx s = .next (respond (packPixel p) s)) ∨
    (s.handle.valid = true ∧ idx.toNat < 25 ∧ Memory.read s.fb idx.toNat = none ∧
      execGet idx s = .fault (.unwrittenElement idx.toNat)) ∨
    (s.handle.valid = true ∧ 25 ≤ idx.toNat ∧
      execGet idx s = .next (raise .indexOutOfRange (encode (.get idx)) s)) := by
  cases hv : s.handle.valid
  · exact .inl ⟨rfl, by simp [execGet, hv, raiseNext]⟩
  · by_cases hi : idx.toNat < 25
    · cases hr : Memory.read s.fb idx.toNat with
      | some p =>
        exact .inr (.inl ⟨rfl, hi, p, rfl, by simp [execGet, hv, indexInRange, Config.elements, hi, hr]⟩)
      | none =>
        exact .inr (.inr (.inl ⟨rfl, hi, rfl, by simp [execGet, hv, indexInRange, Config.elements, hi, hr]⟩))
    · exact .inr (.inr (.inr ⟨rfl, by omega, by simp [execGet, hv, indexInRange, Config.elements, hi, raiseNext]⟩))

theorem execClear_cases (s : State) :
    (s.handle.valid = false ∧ execClear s = .next (raise .usedBeforeInit (encode .clear) s)) ∨
    (s.handle.valid = true ∧ execClear s = .next (beginFlush { s with fb := Memory.zeroed })) := by
  cases hv : s.handle.valid
  · exact .inl ⟨rfl, by simp [execClear, hv, raiseNext]⟩
  · exact .inr ⟨rfl, by simp [execClear, hv, State.setFb]⟩

theorem execWrite_cases (s : State) :
    (s.handle.valid = false ∧ execWrite s = .next (raise .usedBeforeInit (encode .write) s)) ∨
    (s.handle.valid = true ∧ execWrite s = .next (beginFlush s)) := by
  cases hv : s.handle.valid
  · exact .inl ⟨rfl, by simp [execWrite, hv, raiseNext]⟩
  · exact .inr ⟨rfl, by simp [execWrite, hv]⟩

theorem execMap_cases (row col : BitVec 8) (s : State) :
    (row.toNat < 5 ∧ col.toNat < 5 ∧
      execMap row col s = .next (respond (BitVec.ofNat 24 (mapIndex row.toNat col.toNat)) s)) ∨
    ((4 < row.toNat ∨ 4 < col.toNat) ∧
      execMap row col s = .next (raise .coordinateOutOfRange (encode (.map row col)) s)) := by
  by_cases h : row.toNat < 5 ∧ col.toNat < 5
  · exact .inl ⟨h.1, h.2, by simp [execMap, positionInRange, Config.side, h]⟩
  · refine .inr ⟨by omega, ?_⟩
    have hp : positionInRange row col = false :=
      Bool.eq_false_iff.2 (by
        simp only [positionInRange, ne_eq, Bool.and_eq_true, decide_eq_true_eq]
        exact h)
    simp [execMap, hp, raiseNext]

theorem execBstart_cases (s : State) :
    (s.blkStarted = true ∧ execBstart s = .next s) ∨
    (s.blkStarted = false ∧ execBstart s = .next (driveStat .high { s with blkStarted := true })) := by
  cases hb : s.blkStarted
  · exact .inr ⟨rfl, by simp [execBstart, hb, State.setBlkStarted]⟩
  · exact .inl ⟨rfl, by simp [execBstart, hb]⟩

/-! What each autonomous step can do. -/

theorem submitByte_cases (depth : Nat) (s : State) :
    (¬ (s.cmdst = .flushing ∧ s.txq.length < depth) ∧ submitByte depth s = .next s) ∨
    (s.cmdst = .flushing ∧ s.txq.length < depth ∧ ∃ p, Memory.read s.fb s.scan.i.val = some p ∧
      submitByte depth s = .next (advanceScan { s with txq := s.txq ++ [channelOf p s.scan.ch] })) ∨
    (s.cmdst = .flushing ∧ s.txq.length < depth ∧ Memory.read s.fb s.scan.i.val = none ∧
      submitByte depth s = .fault (.unwrittenElement s.scan.i.val)) := by
  by_cases h : s.cmdst = .flushing ∧ s.txq.length < depth
  · cases hr : Memory.read s.fb s.scan.i.val with
    | some p => exact .inr (.inl ⟨h.1, h.2, p, rfl, by simp [submitByte, h, hr, State.setTxq]⟩)
    | none => exact .inr (.inr ⟨h.1, h.2, rfl, by simp [submitByte, h, hr]⟩)
  · exact .inl ⟨h, by rw [submitByte, if_neg h]⟩

/-- The advance of SCAN moves one byte on, or ends the flush after the 75th. -/
theorem advanceScan_cases (s : State) :
    (∃ c : Scan, 3 * c.i.val + phaseNumber c.ch = 3 * s.scan.i.val + phaseNumber s.scan.ch + 1 ∧
      ¬ (s.scan.ch = .blue ∧ s.scan.i.val = 24) ∧ advanceScan s = { s with scan := c }) ∨
    (s.scan.ch = .blue ∧ s.scan.i.val = 24 ∧ advanceScan s = { s with cmdst := .idle }) := by
  unfold advanceScan
  cases hc : s.scan.ch with
  | green => exact .inl ⟨⟨s.scan.i, .red⟩, by simp [phaseNumber], by simp, rfl⟩
  | red => exact .inl ⟨⟨s.scan.i, .blue⟩, by simp [phaseNumber], by simp, rfl⟩
  | blue =>
    by_cases h : s.scan.i.val < 24
    · refine .inl ⟨⟨⟨s.scan.i.val + 1, by omega⟩, .green⟩, ?_, ?_, ?_⟩
      · simp only [phaseNumber]; omega
      · rintro ⟨-, h'⟩; omega
      · simp [h, State.setScan]
    · refine .inr ⟨rfl, by omega, ?_⟩
      simp [h, State.setCmdst]

theorem emitByte_cases (s : State) :
    (¬ (s.handle.valid = true ∧ s.env.stall = false ∧ s.txq ≠ [] ∧ s.engCnt < 75) ∧ emitByte s = s) ∨
    (s.handle.valid = true ∧ s.env.stall = false ∧ s.engCnt < 75 ∧ ∃ b q, s.txq = b :: q ∧
      emitByte s = { s with txq := q, wire := s.wire ++ [.byte b], engCnt := s.engCnt + 1, dout := .low }) := by
  unfold emitByte
  by_cases h : s.handle.valid = true ∧ s.env.stall = false ∧ s.engCnt < Config.frameBytes
  · rw [if_pos h]
    cases hq : s.txq with
    | nil => exact .inl ⟨by simp, rfl⟩
    | cons b q => exact .inr ⟨h.1, h.2.1, h.2.2, b, q, rfl, rfl⟩
  · rw [if_neg h]
    exact .inl ⟨fun h' => h ⟨h'.1, h'.2.1, h'.2.2.2⟩, rfl⟩

theorem latchFrame_cases (s : State) :
    (¬ (s.env.stall = false ∧ s.engCnt = 75) ∧ latchFrame s = s) ∨
    (s.env.stall = false ∧ s.engCnt = 75 ∧
      latchFrame s = { s with wire := s.wire ++ [.rst], engCnt := 0, dout := .low }) := by
  unfold latchFrame
  by_cases h : s.env.stall = false ∧ s.engCnt = Config.frameBytes
  · exact .inr ⟨h.1, h.2, by rw [if_pos h]; rfl⟩
  · exact .inl ⟨h, by rw [if_neg h]⟩

theorem toggleStat_cases (s : State) :
    (s.blkStarted = false ∧ toggleStat s = s) ∨
    (s.blkStarted = true ∧ toggleStat s = driveStat (flipLevel s.blkLevel) s) := by
  cases hb : s.blkStarted
  · exact .inl ⟨rfl, by simp [toggleStat, hb]⟩
  · exact .inr ⟨rfl, by simp [toggleStat, hb]⟩

/-- EXEC: not enabled, an illegal word, or a command. -/
theorem execCommand_cases (s : State) :
    ((s.cmdst ≠ .idle ∨ s.env.cmds = []) ∧ execCommand s = .next s ∧ commandAtPort s = none) ∨
    (∃ w ws e, s.cmdst = .idle ∧ s.env.cmds = w :: ws ∧ decode w = .error e ∧
      execCommand s = .next (raise .illegalCommand w (acceptCommand ws s)) ∧ commandAtPort s = none) ∨
    (∃ w ws i, s.cmdst = .idle ∧ s.env.cmds = w :: ws ∧ decode w = .ok i ∧
      execCommand s = exec i (acceptCommand ws s) ∧ commandAtPort s = some i) := by
  by_cases hi : s.cmdst = .idle
  · cases hc : s.env.cmds with
    | nil => exact .inl ⟨.inr rfl, by simp [execCommand, hi, hc], by simp [commandAtPort, hi, hc]⟩
    | cons w ws =>
      cases hd : decode w with
      | error e =>
        exact .inr (.inl ⟨w, ws, e, hi, rfl, hd, by simp [execCommand, hi, hc, executeWord, hd],
          by simp [commandAtPort, hi, hc, hd]⟩)
      | ok i =>
        exact .inr (.inr ⟨w, ws, i, hi, rfl, hd, by simp [execCommand, hi, hc, executeWord, hd],
          by simp [commandAtPort, hi, hc, hd]⟩)
  · exact .inl ⟨.inl hi, by simp [execCommand, hi], by simp [commandAtPort, hi]⟩

@[simp] theorem enabled_exec (s : State) : enabled .exec s = true ↔ s.cmdst = .idle ∧ s.env.cmds ≠ [] := decide_eq_true_iff

@[simp] theorem enabled_submit (s : State) :
    enabled .submit s = true ↔ s.cmdst = .flushing ∧ s.txq.length < Config.txqDepth := decide_eq_true_iff

@[simp] theorem enabled_emit (s : State) :
    enabled .emit s = true ↔ s.handle.valid = true ∧ s.env.stall = false ∧ s.txq ≠ [] ∧ s.engCnt < 75 :=
  decide_eq_true_iff

@[simp] theorem enabled_latch (s : State) : enabled .latch s = true ↔ s.env.stall = false ∧ s.engCnt = 75 :=
  decide_eq_true_iff

@[simp] theorem enabled_toggle (s : State) : enabled .toggle s = true ↔ s.blkStarted = true := Iff.rfl

/-- A step that is not enabled leaves the state as it is (log 2). -/
theorem perform_of_not_enabled {m : Move} {s : State} (h : enabled m s = false) : perform m s = .next s := by
  have hn := Bool.eq_false_iff.1 h
  cases m with
  | exec =>
    rcases execCommand_cases s with ⟨-, e, -⟩ | ⟨w, ws, -, hi, hc, -⟩ | ⟨w, ws, -, hi, hc, -⟩
    · exact e
    all_goals exact absurd ((enabled_exec s).2 ⟨hi, by simp [hc]⟩) hn
  | submit =>
    rcases submitByte_cases Config.txqDepth s with ⟨-, e⟩ | ⟨hf, hl, -⟩ | ⟨hf, hl, -⟩
    · exact e
    all_goals exact absurd ((enabled_submit s).2 ⟨hf, hl⟩) hn
  | emit =>
    rcases emitByte_cases s with ⟨-, e⟩ | ⟨hv, hs, hc, b, q, hq, -⟩
    · simp [perform, e]
    · exact absurd ((enabled_emit s).2 ⟨hv, hs, by simp [hq], hc⟩) hn
  | latch =>
    rcases latchFrame_cases s with ⟨-, e⟩ | ⟨hs, hc, -⟩
    · simp [perform, e]
    · exact absurd ((enabled_latch s).2 ⟨hs, hc⟩) hn
  | toggle =>
    rcases toggleStat_cases s with ⟨-, e⟩ | ⟨hb, -⟩
    · simp [perform, e]
    · exact absurd ((enabled_toggle s).2 hb) hn
  | offer w => cases h
  | rst => cases h
  | stall => cases h
  | setPoolFree p => cases h

/-- Taking a move off the schedule changes the model's own inputs only. -/
theorem consumeMove_eq (s : State) :
    ∃ ms n, consumeMove s = { s with env := { s.env with moves := ms, draws := n } } := by
  unfold consumeMove
  split
  · exact ⟨_, s.env.draws, rfl⟩
  · exact ⟨s.env.moves, _, rfl⟩

/-- In a stuck flush no step of A or E is enabled (42_transport.md R77). -/
theorem quiescent_of_runStuck {s : State} (h : RunStuck s) : Quiescent s := by
  obtain ⟨hf, hs, hq⟩ := h
  simp only [Quiescent, List.forall_mem_cons, ← Bool.not_eq_true, enabled_exec, enabled_submit, enabled_emit,
    enabled_latch, hf, hs]
  simp [hq]

/-! Runs along a list of moves. -/

theorem performAll_append (ms ns : List Move) (s : State) :
    performAll (ms ++ ns) s =
      match performAll ms s with
      | .next t => performAll ns t
      | .fault e => .fault e
      | .refused e => .refused e := by
  induction ms generalizing s with
  | nil => rfl
  | cons m ms ih =>
    simp only [List.cons_append, performAll]
    cases perform m s with
    | next t => exact ih t
    | fault e => rfl
    | refused e => rfl

@[simp] theorem firstMoves_zero (σ : Nat → Move) : firstMoves σ 0 = [] := rfl

theorem firstMoves_succ (σ : Nat → Move) (n : Nat) : firstMoves σ (n + 1) = firstMoves σ n ++ [σ n] := by
  simp [firstMoves, List.range_succ]

/-- One more move of a schedule. -/
theorem performAll_firstMoves_succ {σ : Nat → Move} {n : Nat} {s t : State}
    (h : performAll (firstMoves σ n) s = .next t) : performAll (firstMoves σ (n + 1)) s = perform (σ n) t := by
  rw [firstMoves_succ, performAll_append, h]
  simp only [performAll]
  cases perform (σ n) t <;> rfl

end Sys2Proof.Machine
end

