-- ==== Sys2Proof/Laws/PerInstr.lean ====
section
/-! SUPPORT. Statements about every command as syntax, one lemma per constructor. -/

namespace Sys2Proof.Laws

/-- The encoder sets no reserved bit and uses no reserved opcode (30_encoding.md R51, R52). -/
def WordWellFormed.Statement (i : Instr) : Prop := wordWf (encode i) = true

/-- A word of opcode `op` whose bits are 0 wherever `reservedBits op` has a 1 is well formed. -/
theorem wordWf_of_bits {w : Word} {op : BitVec 3} (hop : bits w 29 3 = op) (h0 : op ≠ 0#3)
    (h : ∀ k < 32, (reservedBits op).getLsbD k = true → w.getLsbD k = false) : wordWf w = true := by
  have hop' : w.extractLsb' 29 3 = op := hop
  have hz : w &&& reservedBits op = 0#32 := by
    apply BitVec.eq_of_getLsbD_eq
    intro k hk
    rw [BitVec.getLsbD_and, BitVec.getLsbD_zero]
    cases hm : (reservedBits op).getLsbD k
    · simp
    · simp [h k hk hm]
  simp [wordWf, hop', h0, hz]

theorem WordWellFormed.init (pin : BitVec 8) : WordWellFormed.Statement (.init pin) := by
  refine wordWf_of_bits (encode_init_fields pin).1 (by decide) fun k hk hm => ?_
  have low : ∀ k < 8, (reservedBits 0b001#3).getLsbD k = false := by decide
  have high : ∀ k < 32, 29 ≤ k → (reservedBits 0b001#3).getLsbD k = false := by decide
  rw [encode_init_bit]
  split_ifs with h1 h2
  · simp [low k h1] at hm
  · rfl
  · simp [high k hk (by omega)] at hm

theorem WordWellFormed.set (idx : BitVec 5) (r g b : Byte) : WordWellFormed.Statement (.set idx r g b) := by
  refine wordWf_of_bits (encode_set_fields idx r g b).1 (by decide) fun k hk hm => ?_
  simp [reservedBits] at hm

theorem WordWellFormed.get (idx : BitVec 5) : WordWellFormed.Statement (.get idx) := by
  refine wordWf_of_bits (encode_get_fields idx).1 (by decide) fun k hk hm => ?_
  have high : ∀ k < 32, 24 ≤ k → (reservedBits 0b011#3).getLsbD k = false := by decide
  rw [encode_get_bit]
  split_ifs with h1 h2
  · rfl
  · simp [high k hk (by omega)] at hm
  · simp [high k hk (by omega)] at hm

theorem WordWellFormed.clear : WordWellFormed.Statement .clear := by
  simp only [WordWellFormed.Statement]; decide

theorem WordWellFormed.write : WordWellFormed.Statement .write := by
  simp only [WordWellFormed.Statement]; decide

theorem WordWellFormed.map (row col : BitVec 8) : WordWellFormed.Statement (.map row col) := by
  refine wordWf_of_bits (encode_map_fields row col).1 (by decide) fun k hk hm => ?_
  have low : ∀ k < 16, (reservedBits 0b110#3).getLsbD k = false := by decide
  have high : ∀ k < 32, 29 ≤ k → (reservedBits 0b110#3).getLsbD k = false := by decide
  rw [encode_map_bit]
  split_ifs with h1 h2 h3
  · simp [low k (by omega)] at hm
  · simp [low k (by omega)] at hm
  · rfl
  · simp [high k hk (by omega)] at hm

theorem WordWellFormed.bstart : WordWellFormed.Statement .bstart := by
  simp only [WordWellFormed.Statement]; decide

end Sys2Proof.Laws
end

