-- ==== Sys2Proof/Tests/Slice0.lean ====
section
/-! SUPPORT. Tests of the model, their expected results from spec/95_test_vectors.md (each names its vectors), and for every
obligation with hypotheses a concrete state and operands that meet them (`test_witness_…`). -/

namespace Sys2Proof.Tests

open Sys2Proof Sys2Proof.Machine

/-- What `f` reads in a next state; nothing where the machine stopped. -/
def seen {β : Type} (o : Host.Outcome State Fault Refusal) (f : State → β) : Option β :=
  match o with
  | .next s => some (f s)
  | .fault _ => none
  | .refused _ => none

/-- The next state of an outcome that has one, from what is seen in it. -/
theorem exists_of_seen {β : Type} {o : Host.Outcome State Fault Refusal} {f : State → β} {v : β} (h : seen o f = some v) :
    ∃ t, o = .next t ∧ f t = v := by
  cases o with
  | next s => exact ⟨s, rfl, by simpa [seen] using h⟩
  | fault e => simp [seen] at h
  | refused e => simp [seen] at h

/-- Reset, then `INIT 7` on lane 0 of the primary pool (95 I1). -/
def ready : State := { State.reset with handle := ⟨true, 0, 0, 7⟩, fb := Memory.zeroed }

/-- `ready` after `SET 0, 0x10, 0x20, 0x30` (95 W2). -/
def painted : State := { ready with fb := Memory.write Memory.zeroed 0 ⟨0x10, 0x20, 0x30⟩ }

/-- `painted` at the start of a flush. -/
def flushing : State := { painted with cmdst := .flushing, scan := ⟨0, .green⟩ }

/-- Reset, then `BSTART` (95 B1). -/
def blinking : State := { State.reset with blkStarted := true, blkLevel := .high, stat := .high, statlog := [.high] }

/-- After `SET 25, 1, 2, 3` before INIT (95 X1). -/
def halted : State := { State.reset with fault := ⟨true, 2, 4, 0x59010203⟩, cmdst := .halted }

/-- Reset with every lane busy (95 I4). -/
def exhausted : State := { State.reset with env := { Env.initial with poolFree := ⟨0, 0⟩ } }

/-- `ready` after a whole frame has been sent and not yet latched. -/
def sent : State := { ready with wire := List.replicate 75 (.byte 0), engCnt := 75 }

/-- `flushing` with the engine stalled and the queue full, whatever TXQ_DEPTH is (95 W12). -/
def stuck : State :=
  { flushing with txq := List.replicate Config.txqDepth 0, env := { Env.initial with stall := true } }

/-! ## Encoding (95 E1 to E21) -/

theorem test_decode_init :
    decode 0x20000007#32 = .ok (.init 7) ∧ decode 0x200000FF#32 = .ok (.init 255) ∧
      decode 0x20000107#32 = .error .reservedBit := by decide

theorem test_decode_set :
    decode 0x58102030#32 = .ok (.set 24 0x10 0x20 0x30) ∧ decode 0x40FF0000#32 = .ok (.set 0 255 0 0) ∧
      decode 0x5FFFFFFF#32 = .ok (.set 31 255 255 255) := by decide

theorem test_decode_get :
    decode 0x78000000#32 = .ok (.get 24) ∧ decode 0x78000001#32 = .error .reservedBit := by decide

theorem test_decode_flushes :
    decode 0x80000000#32 = .ok .clear ∧ decode 0x80000001#32 = .error .reservedBit ∧
      decode 0xA0000000#32 = .ok .write ∧ decode 0xB0000000#32 = .error .reservedBit := by decide

theorem test_decode_map :
    decode 0xC0000203#32 = .ok (.map 2 3) ∧ decode 0xC000FFFF#32 = .ok (.map 255 255) ∧
      decode 0xC0010000#32 = .error .reservedBit := by decide

theorem test_decode_bstart :
    decode 0xE0000000#32 = .ok .bstart ∧ decode 0xE0000001#32 = .error .reservedBit := by decide

theorem test_decode_opcode_zero :
    decode 0x00000000#32 = .error .reservedOpcode ∧ decode 0x1FFFFFFF#32 = .error .reservedOpcode := by decide

/-- Each check of a word refuses an ill-formed one: E4, E10, E12, E14, E17, E19, E20, E21. -/
theorem test_wf_refuses_words :
    [0x20000107#32, 0x78000001#32, 0x80000001#32, 0xB0000000#32, 0xC0010000#32, 0xE0000001#32, 0x00000000#32,
      0x1FFFFFFF#32].map wordWf = List.replicate 8 false := by decide

/-- Each check of an assembler line refuses an operand one above its field (30_encoding.md R54). -/
theorem test_wf_refuses_lines :
    [AsmLine.init 256, .set 32 0 0 0, .set 0 256 0 0, .set 0 0 256 0, .set 0 0 0 256, .get 32, .map 256 0, .map 0 256,
      .word (2 ^ 32)].map AsmLine.wf = List.replicate 9 false := by decide

/-- The assembler takes operands that are out of range but fit (30_encoding.md R54, 95 E5, E7, M3). -/
theorem test_assemble :
    assemble (.set 24 0x10 0x20 0x30) = some 0x58102030#32 ∧ assemble (.set 25 1 2 3) = some 0x59010203#32 ∧
      assemble (.map 5 0) = some 0xC0000500#32 ∧ assemble (.init 256) = none := by decide

theorem test_encode_wf : wordWf (encode (.map 255 255)) = true := Laws.WordWellFormed.map 255 255

/-! ## The commands, one step each -/

/-- 95 I1. -/
theorem test_init_first_lane :
    seen (initWith 4 0 7 State.reset) (fun t => (handleOut t, t.dout, t.wire, Memory.read t.fb 24)) =
      some (0x807, .low, [], some ⟨0, 0, 0⟩) := by decide

/-- 95 I3 and I4. -/
theorem test_init_fallback_and_exhaustion :
    seen (initWith 4 0 7 { State.reset with env := { Env.initial with poolFree := ⟨0, 0b1100⟩ } }) handleOut = some 0xE07 ∧
      seen (initWith 4 0 7 exhausted) (fun t => (faultRec t, t.handle.valid, t.fb)) = some (0x2820000007, false, []) := by
  decide

/-- 95 F2 and F4: one element is written, its neighbours are not, nothing is sent. -/
theorem test_set :
    seen (exec (.set 24 0x10 0x20 0x30) ready) (fun t => (Memory.read t.fb 24, Memory.read t.fb 23, t.wire)) =
      some (some ⟨0x10, 0x20, 0x30⟩, some ⟨0, 0, 0⟩, []) := by decide

/-- 95 F7: index 31 neither wraps nor clamps. -/
theorem test_set_out_of_range :
    seen (exec (.set 31 0 0 0) painted) (fun t => (faultRec t, t.fb)) = some (0x315F000000, painted.fb) := by decide

/-- 95 F2, at index 0 of `painted`. -/
theorem test_get : seen (exec (.get 0) painted) (fun t => (t.res, t.env.rsp)) = some (0x102030, some 0x102030) := by
  decide

/-- 95 F8. -/
theorem test_get_out_of_range :
    seen (exec (.get 25) painted) (fun t => (faultRec t, t.env.rsp)) = some (0x3179000000, none) := by decide

/-- 95 F13, F14. -/
theorem test_clear :
    seen (exec .clear painted) (fun t => (Memory.read t.fb 0, t.cmdst, t.scan)) =
      some (some ⟨0, 0, 0⟩, .flushing, ⟨0, .green⟩) := by decide

/-- 95 F12. -/
theorem test_clear_before_init :
    seen (exec .clear State.reset) (fun t => (faultRec t, t.cmdst, t.txq)) = some (0x3480000000, .halted, []) := by decide

/-- 95 W2: the buffer stays, the flush begins. -/
theorem test_write : seen (exec .write painted) (fun t => (t.fb, t.cmdst)) = some (painted.fb, .flushing) := by decide

/-- 95 W11. -/
theorem test_write_before_init :
    seen (exec .write State.reset) (fun t => (faultRec t, t.txq)) = some (0x34A0000000, []) := by decide

/-- 95 S1, S2 and M1: the whole table, before INIT. -/
theorem test_map_table :
    (cells.map fun rc => seen (exec (.map (BitVec.ofNat 8 rc.1) (BitVec.ofNat 8 rc.2)) State.reset) State.res) =
      ([24, 23, 22, 21, 20, 15, 16, 17, 18, 19, 14, 13, 12, 11, 10, 5, 6, 7, 8, 9, 4, 3, 2, 1, 0].map
        fun k => some (BitVec.ofNat 24 k)) := by decide

/-- 95 M3 and M6. -/
theorem test_map_out_of_range :
    seen (exec (.map 5 0) ready) faultRec = some 0x32C0000500 ∧
      seen (exec (.map 9 9) State.reset) faultRec = some 0x32C0000909 := by decide

/-- 95 B1. -/
theorem test_bstart :
    seen (exec .bstart State.reset) (fun t => (t.blkStarted, statPin t, t.statlog)) = some (true, 1, [.high]) := by decide

/-- 95 B4: a second start forces nothing. -/
theorem test_bstart_again :
    exec .bstart { blinking with blkLevel := .low, stat := .low, statlog := [.high, .low] } =
      .next { blinking with blkLevel := .low, stat := .low, statlog := [.high, .low] } := rfl

/-- 95 E20, by way of the port: the second word of the stream waits. -/
theorem test_illegal_word :
    seen (execCommand { State.reset with env := { Env.initial with cmds := [0, 1] } })
      (fun t => (faultRec t, t.env.cmds)) = some (0x3500000000, [1]) := by decide

/-- `step` runs the word that `withFetchWord` places. -/
theorem test_step_runs_the_placed_word :
    seen (step (State.reset.withFetchWord 32 0xC0000203)) (fun t => (t.res, t.env.rsp)) = some (11, some 11) := by decide

/-! ## The steps of the agents -/

/-- 95 W5, its first three SUBMITs: green, red, blue. -/
theorem test_submit_order :
    ([Phase.green, .red, .blue].map fun ch => seen (submitByte 4 { flushing with scan := ⟨0, ch⟩ })
      fun t => (t.txq, t.scan)) =
      [some ([0x20], ⟨0, .red⟩), some ([0x10], ⟨0, .blue⟩), some ([0x30], ⟨1, .green⟩)] := by decide

/-- 95 W5: a full queue blocks; 42_transport.md R73: the 75th byte ends the flush. -/
theorem test_submit_blocks_and_ends :
    seen (submitByte 4 { flushing with txq := [0x20, 0x10, 0x30, 0] }) (fun t => (t.txq, txqFullAt 4 t)) =
        some ([0x20, 0x10, 0x30, 0], true) ∧
      seen (submitByte 4 { flushing with scan := ⟨24, .blue⟩ }) State.cmdst = some .idle := by decide

/-- 95 W5: SUBMIT wants an EMIT first, and EMIT takes the oldest byte. -/
theorem test_emit :
    (emitByte { flushing with txq := [0x20, 0x10] }).wire = [.byte 0x20] ∧
      (emitByte { flushing with txq := [0x20, 0x10] }).txq = [0x10] := by decide

/-- 95 W8: EMIT is disabled at 75, LATCH is not. -/
theorem test_latch :
    (emitByte { sent with txq := [1] }).txq = [1] ∧ (latchFrame sent).engCnt = 0 ∧
      (latchFrame sent).wire = List.replicate 75 (.byte 0) ++ [.rst] := by decide

/-- 95 B2. -/
theorem test_toggle : (toggleStat blinking).statlog = [.high, .low] ∧ statPin (toggleStat blinking) = 0 := by decide

/-- 95 W9 and W10. -/
theorem test_bit_order :
    wireBits .msbFirst [.byte 0x20] = [false, false, true, false, false, false, false, false] ∧
      wireBits .lsbFirst [.byte 0x20] = [false, false, false, false, false, true, false, false] := by decide

/-- 95 P2: SETXY 0, 0, 255, 0, 0 as words. -/
theorem test_setxy_words : hostOpWords (.setxy 0 0 255 0 0) = [0xC0000000#32, 0x58FF0000#32] := by decide

/-- 44_frame_renderer.md R93: 51 commands. -/
theorem test_render_length :
    ((expandRender (fun _ _ _ _ => 0) 1).map fun ops => (ops.flatMap hostOpWords).length) = some 51 := by decide

/-- 95 P1 and M3, read from their characters. -/
theorem test_assemble_text :
    assembleText (fun _ _ _ _ => 0) ['S', 'E', 'T', ' ', '3', ',', ' ', '0', 'x', 'A', 'a', ',', '8', ',', '7', ' ', ';', 'c'] =
        some [0x43AA0807#32] ∧
      assembleText (fun _ _ _ _ => 0) ['M', 'A', 'P', ' ', '5', ',', '0'] = some [0xC0000500#32] ∧
      assembleText (fun _ _ _ _ => 0) ['M', 'A', 'P', ' ', '5'] = none := by decide

/-- 44_frame_renderer.md R92: a SETXY off the matrix issues its MAP only. -/
theorem test_setxy_off_the_matrix : hostOpWords (.setxy 5 0 1 2 3) = [0xC0000500#32] := by decide

/-! ## Good states -/

theorem test_ready_good : Inv ready where
  fbGood := by unfold FbGood; decide
  sequencingGood := by unfold SequencingGood; decide
  faultGood := by unfold FaultGood; decide
  queueGood := ⟨Nat.zero_le _, by decide⟩
  engineGood := by unfold EngineGood; decide
  pinGood := by unfold PinGood; decide
  togglerGood := by unfold TogglerGood; decide
  flushGood := by unfold FlushGood; decide

theorem test_flushing_good : Inv flushing where
  fbGood := by unfold FbGood; decide
  sequencingGood := by unfold SequencingGood; decide
  faultGood := by unfold FaultGood; decide
  queueGood := ⟨Nat.zero_le _, by decide⟩
  engineGood := by unfold EngineGood; decide
  pinGood := by unfold PinGood; decide
  togglerGood := by unfold TogglerGood; decide
  flushGood := by unfold FlushGood; decide

theorem test_blinking_good : Inv blinking where
  fbGood := by unfold FbGood; decide
  sequencingGood := by unfold SequencingGood; decide
  faultGood := by unfold FaultGood; decide
  queueGood := ⟨Nat.zero_le _, by decide⟩
  engineGood := by unfold EngineGood; decide
  pinGood := by unfold PinGood; decide
  togglerGood := by unfold TogglerGood; decide
  flushGood := by unfold FlushGood; decide

theorem test_exhausted_good : Inv exhausted where
  fbGood := by unfold FbGood; decide
  sequencingGood := by unfold SequencingGood; decide
  faultGood := by unfold FaultGood; decide
  queueGood := ⟨Nat.zero_le _, by decide⟩
  engineGood := by unfold EngineGood; decide
  pinGood := by unfold PinGood; decide
  togglerGood := by unfold TogglerGood; decide
  flushGood := by unfold FlushGood; decide

/-! ## Witnesses: the hypotheses of each obligation can be met -/

theorem test_witness_EncodeOfDecode : decode 0x5FFFFFFF#32 = .ok (.set 31 255 255 255) := by decide

theorem test_witness_ReservedBitsMakeAWordIllegal :
    (0x5FFFFFFF#32).extractLsb' 29 3 = 0b010#3 ∧ (0x1FFFFFFF#32).extractLsb' 29 3 = 0b000#3 ∧
      wordWf 0x20000100#32 = false := by decide

theorem test_witness_StepRunsTheDecodedCommand :
    ∃ s : State, s.env.moves = [.exec] ∧ s.cmdst = .idle ∧ s.env.cmds = [0x58102030#32] ∧
      decode 0x58102030#32 = .ok (.set 24 0x10 0x20 0x30) :=
  ⟨State.reset.withFetchWord 32 0x58102030, by decide⟩

theorem test_witness_StepFaultsOnAnIllegalWord :
    ∃ s : State, s.env.moves = [.exec] ∧ s.cmdst = .idle ∧ s.env.cmds = [0xE0000001#32] ∧
      decode 0xE0000001#32 = .error .reservedBit :=
  ⟨State.reset.withFetchWord 32 0xE0000001, by decide⟩

theorem test_witness_ClosedPortTakesNothing :
    (placeMoves [.exec] halted).env.moves = [.exec] ∧ (placeMoves [.exec] halted).cmdst ≠ .idle ∧
      (placeMoves [.exec] flushing).env.moves = [.exec] ∧ (placeMoves [.exec] flushing).cmdst ≠ .idle := by decide

/-- A free primary lane, and a free secondary lane only. -/
theorem test_witness_InitClaimsALane :
    State.reset.handle.valid = false ∧
      (∃ l, l < Config.lanes ∧ (State.reset.env.poolFree.primary.getLsbD l = true ∨
        State.reset.env.poolFree.secondary.getLsbD l = true)) ∧
      (∃ l, l < Config.lanes ∧ (⟨0, 1⟩ : Pools).secondary.getLsbD l = true) :=
  ⟨by decide, ⟨0, lanes_pos, by decide⟩, ⟨0, lanes_pos, by decide⟩⟩

theorem test_witness_SetWritesOneElement :
    ready.handle.valid = true ∧ (24 : BitVec 5).toNat < 25 ∧ (0 : BitVec 5).toNat < 25 := by decide

theorem test_witness_GetAnswersTheElement :
    painted.handle.valid = true ∧ (0 : BitVec 5).toNat < 25 ∧
      Memory.read painted.fb (0 : BitVec 5).toNat = some ⟨0x10, 0x20, 0x30⟩ ∧ (24 : BitVec 5).toNat < 25 ∧
      Memory.read painted.fb (24 : BitVec 5).toNat = some ⟨0, 0, 0⟩ := by decide

theorem test_witness_ClearZeroesAndFlushes : painted.handle.valid = true := by decide

theorem test_witness_WriteBeginsAFlush : painted.handle.valid = true := by decide

theorem test_witness_MapAnswersTheTable :
    (0 : BitVec 8).toNat < 5 ∧ (4 : BitVec 8).toNat < 5 := by decide

/-- Indices 25 and 31 on one side of the bound, 24 on the other, with a full buffer. -/
theorem test_witness_IndexOutOfRangeFaults :
    painted.handle.valid = true ∧ 25 ≤ (25 : BitVec 5).toNat ∧ 25 ≤ (31 : BitVec 5).toNat ∧
      (24 : BitVec 5).toNat < 25 ∧ Memory.full painted.fb := by decide

theorem test_witness_CoordinateOutOfRangeFaults :
    (4 < (5 : BitVec 8).toNat ∨ 4 < (0 : BitVec 8).toNat) ∧ (4 < (0 : BitVec 8).toNat ∨ 4 < (5 : BitVec 8).toNat) ∧
      (4 < (255 : BitVec 8).toNat ∨ 4 < (255 : BitVec 8).toNat) := by decide

theorem test_witness_UsedBeforeInitFaults :
    State.reset.handle.valid = false ∧ ((∃ idx r g b, Instr.write = .set idx r g b) ∨ (∃ idx, Instr.write = .get idx) ∨
      Instr.write = .clear ∨ Instr.write = .write) := ⟨by decide, .inr (.inr (.inr rfl))⟩

theorem test_witness_SecondInitFaults : ready.handle.valid = true := by decide

/-- Every lane is busy, and a later move runs. -/
theorem test_witness_NoFreeLaneIsFatal :
    Inv exhausted ∧ exhausted.handle.valid = false ∧
      (∀ l < Config.lanes, exhausted.env.poolFree.primary.getLsbD l = false ∧
        exhausted.env.poolFree.secondary.getLsbD l = false) ∧
      (∀ m ∈ [Move.toggle], m ≠ .rst) ∧
      ∃ t, performAll [.toggle]
        { exhausted with fault := ⟨true, 1, 0, encode (.init 7)⟩, cmdst := .halted } = .next t :=
  ⟨test_exhausted_good, by decide, fun l _ => ⟨by simp [exhausted], by simp [exhausted]⟩, by decide, ⟨_, rfl⟩⟩

theorem test_witness_CheckOrder :
    decode 0x79000001#32 = .error .reservedBit ∧ State.reset.handle.valid = false ∧ ready.handle.valid = true ∧
      25 ≤ (25 : BitVec 5).toNat ∧ ({ ready with env := exhausted.env } : State).env.poolFree = ⟨0, 0⟩ ∧
      ({ ready with env := exhausted.env } : State).handle.valid = true ∧ exhausted.env.poolFree = ⟨0, 0⟩ ∧
      exhausted.handle.valid = false ∧ (4 < (9 : BitVec 8).toNat ∨ 4 < (9 : BitVec 8).toNat) := by decide

theorem test_witness_FaultsArePrecise :
    State.reset.cmdst = .idle ∧ (∃ t, exec (.set 25 1 2 3) State.reset = .next t ∧ t.cmdst = .halted) ∧
      (Move.emit ≠ .exec ∧ Move.emit ≠ .rst ∧ ∃ t, perform .emit halted = .next t ∧ t.cmdst = .halted) :=
  ⟨by decide, exists_of_seen (f := State.cmdst) (by decide), by decide, by decide,
    exists_of_seen (f := State.cmdst) (by decide)⟩

theorem test_witness_OnlyResetLeavesHalted :
    halted.cmdst = .halted ∧ (∀ m ∈ [Move.exec, .toggle], m ≠ .rst) ∧
      ∃ t, performAll [.exec, .toggle] halted = .next t ∧ t.cmdst = .halted :=
  ⟨by decide, by decide, exists_of_seen (f := State.cmdst) (by decide)⟩

/-- A SET that writes and one that faults. -/
theorem test_witness_SetFrame :
    (∃ t, exec (.set 24 1 2 3) ready = .next t ∧ t.cmdst = .idle) ∧
      ∃ t, exec (.set 25 1 2 3) ready = .next t ∧ t.cmdst = .halted :=
  ⟨exists_of_seen (f := State.cmdst) (by decide), exists_of_seen (f := State.cmdst) (by decide)⟩

theorem test_witness_GetAndMapFrame :
    (∃ t, exec (.get 24) painted = .next t ∧ t.res = 0) ∧
      ∃ t, exec (.map 5 0) painted = .next t ∧ (decide (t.fault ≠ painted.fault)) = true :=
  ⟨exists_of_seen (f := State.res) (by decide), exists_of_seen (f := fun t => decide (t.fault ≠ painted.fault)) (by decide)⟩

theorem test_witness_FlushCommandsFrame :
    (∃ t, exec .write painted = .next t ∧ t.cmdst = .flushing) ∧
      (∃ t, exec .clear painted = .next t ∧ t.cmdst = .flushing) ∧
      State.reset.handle.valid = false ∧ ∃ t, exec .clear State.reset = .next t ∧ t.cmdst = .halted :=
  ⟨exists_of_seen (f := State.cmdst) (by decide), exists_of_seen (f := State.cmdst) (by decide), by decide,
    exists_of_seen (f := State.cmdst) (by decide)⟩

theorem test_witness_InitFrame :
    (∃ t, exec (.init 7) State.reset = .next t) ∧
      ∃ t, exec (.init 7) ready = .next t ∧ decide (t.fault ≠ ready.fault) = true := by
  refine ⟨?_, exists_of_seen (f := fun t => decide (t.fault ≠ ready.fault)) (by decide)⟩
  rcases execInit_cases 7 State.reset with ⟨_, h⟩ | ⟨_, _, _, _, h⟩ | ⟨_, _, h⟩ <;> exact ⟨_, h⟩

theorem test_witness_BstartFrame : ∃ t, exec .bstart State.reset = .next t ∧ t.stat = .high :=
  exists_of_seen (f := State.stat) (by decide)

/-- Room for one byte, at the first and at the last byte of a flush; and a state in which SUBMIT is not enabled. -/
theorem test_witness_SubmitPushesOneByte :
    flushing.cmdst = .flushing ∧ flushing.txq.length < Config.txqDepth ∧
      Memory.read flushing.fb flushing.scan.i.val = some ⟨0x10, 0x20, 0x30⟩ ∧
      Memory.read flushing.fb 24 = some ⟨0, 0, 0⟩ ∧
      ¬ (ready.cmdst = .flushing ∧ ready.txq.length < Config.txqDepth) :=
  ⟨by decide, txqDepth_pos, by decide, by decide, fun h => absurd h.1 (by decide)⟩

/-- The 75th byte of a frame may go, a 76th may not. -/
theorem test_witness_EmitSendsTheHead :
    (∃ s : State, s.handle.valid = true ∧ s.env.stall = false ∧ s.txq = [1] ∧ s.engCnt = 74 ∧ s.engCnt < 75) ∧
      ¬ (sent.handle.valid = true ∧ sent.env.stall = false ∧ sent.txq ≠ [] ∧ sent.engCnt < 75) :=
  ⟨⟨{ ready with txq := [1], engCnt := 74 }, by decide⟩, by decide⟩

theorem test_witness_LatchEndsTheFrame :
    sent.env.stall = false ∧ sent.engCnt = 75 ∧ ¬ (ready.env.stall = false ∧ ready.engCnt = 75) := by decide

theorem test_witness_ToggleFlipsTheStatusPin :
    blinking.blkStarted = true ∧ ready.blkStarted = false ∧ Inv blinking ∧
      ∃ t, perform .exec blinking = .next t ∧ t.stat = .high :=
  ⟨by decide, by decide, test_blinking_good, exists_of_seen (f := State.stat) (by decide)⟩

theorem test_witness_StepKeepsGood :
    Inv (placeMoves [.toggle] blinking) ∧ ∃ t, step (placeMoves [.toggle] blinking) = .next t ∧ t.stat = .low := by
  refine ⟨?_, exists_of_seen (f := State.stat) (by decide)⟩
  obtain ⟨a, b, c, d, e, f, g, h⟩ := test_blinking_good
  exact ⟨a, b, c, d, e, f, g, h⟩

theorem test_witness_GoodStatesNeverStop : Inv flushing := test_flushing_good

theorem test_witness_MemoryStaysCanonical :
    Memory.wf (ready.withFetchWord 32 0x58102030).fb ∧
      ∃ t, step (ready.withFetchWord 32 0x58102030) = .next t ∧ Memory.read t.fb 24 = some ⟨0x10, 0x20, 0x30⟩ :=
  ⟨by decide, exists_of_seen (f := fun t => Memory.read t.fb 24) (by decide)⟩

/-- A SET changes an element by way of the port. -/
theorem test_witness_OnlyInitSetClearWriteTheBuffer :
    Move.exec ≠ .rst ∧ ∃ t, perform .exec (ready.withFetchWord 32 0x58102030) = .next t ∧
      decide (t.fb ≠ (ready.withFetchWord 32 0x58102030).fb) = true :=
  ⟨by decide, exists_of_seen (f := fun t => decide (t.fb ≠ (ready.withFetchWord 32 0x58102030).fb)) (by decide)⟩

theorem test_witness_OnlyResetReleasesTheLane :
    Move.exec ≠ .rst ∧ ready.handle.valid = true ∧ blinking.blkStarted = true ∧
      (∃ t, perform .exec ready = .next t ∧ t.handle.valid = true) ∧
      ∃ t, perform .exec blinking = .next t ∧ t.blkStarted = true :=
  ⟨by decide, by decide, by decide, exists_of_seen (f := fun t => t.handle.valid) (by decide),
    exists_of_seen (f := State.blkStarted) (by decide)⟩

theorem test_witness_OnlyGetAndMapWriteRes :
    Move.exec ≠ .rst ∧ ∃ t, perform .exec (State.reset.withFetchWord 32 0xC0000000) = .next t ∧
      decide (t.res ≠ (State.reset.withFetchWord 32 0xC0000000).res) = true :=
  ⟨by decide, exists_of_seen (f := fun t => decide (t.res ≠ (State.reset.withFetchWord 32 0xC0000000).res)) (by decide)⟩

/-- Two different states that look alike to A and E. -/
theorem test_witness_TransportCannotSeeTheToggler :
    hideToggler blinking = hideToggler State.reset ∧ blinking ≠ State.reset := by decide

/-- Two different states that look alike to B; and a BSTART that changes what B sees. -/
theorem test_witness_TogglerCannotSeeTheTransport :
    togglerView ready = togglerView State.reset ∧ ready ≠ State.reset ∧ Move.exec ≠ .toggle ∧ Move.exec ≠ .rst ∧
      ∃ t, perform .exec (State.reset.withFetchWord 32 0xE0000000) = .next t ∧
        decide (togglerView t ≠ togglerView (State.reset.withFetchWord 32 0xE0000000)) = true :=
  ⟨by decide, by decide, by decide, by decide,
    exists_of_seen (f := fun t => decide (togglerView t ≠ togglerView (State.reset.withFetchWord 32 0xE0000000)))
      (by decide)⟩

theorem test_witness_StuckStaysStuck :
    RunStuck stuck ∧ (∀ m ∈ [Move.submit, .emit, .latch], m ≠ .rst) ∧ RunStuck { stuck with blkStarted := true } :=
  ⟨⟨rfl, rfl, by simp [stuck]⟩, by decide, ⟨rfl, rfl, by simp [stuck]⟩⟩

/-- An EMIT and a LATCH that change the wire. -/
theorem test_witness_OnlyTheEngineWritesTheWire :
    Move.emit ≠ .rst ∧ Move.latch ≠ .rst ∧
      (∃ t, perform .emit { flushing with txq := [1] } = .next t ∧ decide (t.wire ≠ flushing.wire) = true) ∧
      ∃ t, perform .latch sent = .next t ∧ decide (t.wire ≠ sent.wire) = true :=
  ⟨by decide, by decide, exists_of_seen (f := fun t => decide (t.wire ≠ flushing.wire)) (by decide),
    exists_of_seen (f := fun t => decide (t.wire ≠ sent.wire)) (by decide)⟩

theorem test_witness_BytesKeepTheirOrder :
    Move.submit ≠ .rst ∧ ∃ t, perform .submit flushing = .next t ∧ submitted t = [0x20] :=
  ⟨by decide, exists_of_seen (f := submitted) (by decide)⟩

theorem test_halted_good : Inv halted where
  fbGood := by unfold FbGood; decide
  sequencingGood := by unfold SequencingGood; decide
  faultGood := by unfold FaultGood; decide
  queueGood := ⟨Nat.zero_le _, by decide⟩
  engineGood := by unfold EngineGood; decide
  pinGood := by unfold PinGood; decide
  togglerGood := by unfold TogglerGood; decide
  flushGood := by unfold FlushGood; decide

/-- An idle engine; a run that has FAULTED; a run that is over, and one that has FAULTED, each with a move. -/
theorem test_witness_IdleEngineMeansWholeFrames :
    (Inv ready ∧ engIdle ready = true) ∧ (Inv halted ∧ RunFaulted halted ∧ halted.env.stall = false) ∧
      Move.toggle ≠ .rst ∧ (∀ w, Move.toggle ≠ .offer w) ∧
      (observe ready = some (.over ready.fb ready.res ready.handle [] none) ∧ perform .toggle ready = .next ready) ∧
      (observe halted = some (.faulted halted.fault [] []) ∧ perform .toggle halted = .next halted) :=
  ⟨⟨test_ready_good, by decide⟩, ⟨test_halted_good, by decide, by decide⟩, by decide, by simp, ⟨by decide, rfl⟩,
    ⟨by decide, rfl⟩⟩

/-- 70_reset_and_hazards.md R134: while the engine still has bytes to send a halted run has no observation yet. -/
theorem test_draining_run_is_not_observed :
    observe { halted with handle := ready.handle, txq := [1] } = none := by decide

theorem test_witness_FlushIsASnapshot :
    flushing.cmdst = .flushing ∧ Move.submit ≠ .rst ∧ ∃ t, perform .submit flushing = .next t ∧ t.cmdst = .flushing :=
  ⟨by decide, by decide, exists_of_seen (f := State.cmdst) (by decide)⟩

/-- 75 rounds of SUBMIT and EMIT and one LATCH, whatever TXQ_DEPTH is. -/
theorem test_witness_FlushDeliversTheFrame :
    painted.handle.valid = true ∧ Memory.full painted.fb ∧ painted.txq = [] ∧ painted.engCnt = 0 ∧
      exec .write painted = .next flushing ∧
      ∃ ms t, (∀ m ∈ ms, m ≠ Move.exec ∧ m ≠ .rst) ∧ performAll ms flushing = .next t ∧
        (decide (t.cmdst = .idle) && engIdle t) = true :=
  ⟨by decide, by decide, by decide, by decide, rfl,
    (List.replicate 75 [Move.submit, .emit]).flatten ++ [.latch], by
      obtain ⟨t, h1, h2⟩ := exists_of_seen (o := performAll ((List.replicate 75 [Move.submit, .emit]).flatten ++ [.latch])
        flushing) (f := fun t => decide (t.cmdst = .idle) && engIdle t) (v := true) (by decide +kernel)
      exact ⟨t, by decide +kernel, h1, h2⟩⟩

/-- The five steps of the agents in turn, for ever. -/
def roundRobin (k : Nat) : Move :=
  match k % 5 with
  | 0 => .exec
  | 1 => .submit
  | 2 => .emit
  | 3 => .latch
  | _ => .toggle

theorem test_roundRobin_fair (s : State) : WeaklyFair roundRobin s := by
  intro m hm n _
  cases m with
  | exec => exact ⟨5 * n, by omega, by simp [roundRobin]⟩
  | submit => exact ⟨5 * n + 1, by omega, by simp [roundRobin]⟩
  | emit => exact ⟨5 * n + 2, by omega, by simp [roundRobin]⟩
  | latch => exact ⟨5 * n + 3, by omega, by simp [roundRobin]⟩
  | toggle => exact ⟨5 * n + 4, by omega, by simp [roundRobin]⟩
  | offer w => simp [isAgentStep] at hm
  | rst => simp [isAgentStep] at hm
  | stall => simp [isAgentStep] at hm
  | setPoolFree p => simp [isAgentStep] at hm

/-- A flush in progress and a started toggler, and a schedule that is weakly fair and neither stalls nor resets. -/
theorem test_witness_FlushCompletesWhenServed :
    Inv flushing ∧ flushing.cmdst = .flushing ∧ flushing.env.stall = false ∧ Inv blinking ∧
      blinking.blkStarted = true ∧ (∀ k, roundRobin k ≠ .stall ∧ roundRobin k ≠ .rst) ∧
      WeaklyFair roundRobin flushing ∧ WeaklyFair roundRobin blinking := by
  refine ⟨test_flushing_good, by decide, by decide, test_blinking_good, by decide, fun k => ?_,
    test_roundRobin_fair _, test_roundRobin_fair _⟩
  unfold roundRobin
  split <;> decide

theorem test_witness_ChainShowsTheLastFrame :
    framedCount 0 [] = some 0 ∧ framedCount 0 (List.replicate 75 (.byte 0) ++ [.rst]) = some 0 := by decide

theorem test_witness_BitsGoOutInBitOrder : 0 < 8 ∧ 7 < 8 := by decide

theorem test_witness_StatusPortsShowTheState : Inv ready := test_ready_good

/-- A corner of the matrix, and a position just off it on each axis. -/
theorem test_witness_SetxyWritesTheCell :
    ready.cmdst = .idle ∧ ready.handle.valid = true ∧ ((4 : BitVec 8).toNat < 5 ∧ (0 : BitVec 8).toNat < 5) ∧
      (4 < (5 : BitVec 8).toNat ∨ 4 < (0 : BitVec 8).toNat) ∧ (4 < (0 : BitVec 8).toNat ∨ 4 < (5 : BitVec 8).toNat) := by
  decide

theorem test_witness_RenderDrawsTheBitmap : 9 ≤ 9 ∧ ready.cmdst = .idle ∧ ready.handle.valid = true ∧ 9 < 10 := by decide

end Sys2Proof.Tests
end

/-! SUPPORT. Decoding against the opcode map and the reserved bits (30_encoding.md R49 to R52, R57). Both obligations turn
on one fact: a row's mask is the opcode field and the reserved bits of its format, so a row selects a word exactly when the
word is well formed and has the row's opcode. -/

namespace Sys2Proof.Encoding

open Sys2Proof Sys2Proof.Machine

/-! ## Masks and fields -/

/-- `m` has a 1 exactly at the bits of the field `w[lo+len-1 : lo]`. -/
def IsFieldMask (m : Word) (lo len : Nat) : Prop := ∀ k < 32, m.getLsbD k = decide (lo ≤ k ∧ k < lo + len)

theorem and_eq_and_iff_bits {m : Word} {lo len : Nat} (hm : IsFieldMask m lo len) (w p : Word) :
    w &&& m = p &&& m ↔ bits w lo len = bits p lo len := by
  constructor
  · intro h
    refine bits_eq_of_getLsbD fun k hk => ?_
    have hbit := congrArg (·.getLsbD (lo + k)) h
    by_cases h32 : lo + k < 32
    · simpa [hm _ h32, hk, bits] using hbit
    · simp [bits, hk, BitVec.getLsbD_of_ge _ _ (Nat.le_of_not_lt h32)]
  · intro h
    refine BitVec.eq_of_getLsbD_eq fun k hk => ?_
    rw [BitVec.getLsbD_and, BitVec.getLsbD_and, hm k hk]
    by_cases hin : lo ≤ k ∧ k < lo + len
    · obtain ⟨j, rfl⟩ := Nat.exists_eq_add_of_le hin.1
      have hj : j < len := by omega
      rw [getLsbD_of_bits h j hj, getLsbD_of_bits rfl j hj]
    · simp [hin]

theorem and_eq_zero_iff_bits {m : Word} {lo len : Nat} (hm : IsFieldMask m lo len) (w : Word) :
    w &&& m = 0#32 ↔ bits w lo len = 0 := by
  simpa [bits] using and_eq_and_iff_bits hm w 0#32

theorem and_or_eq_and_or_iff (w p a b : Word) :
    w &&& (a ||| b) = p &&& (a ||| b) ↔ w &&& a = p &&& a ∧ w &&& b = p &&& b := by
  constructor
  · intro h
    have ha : a = (a ||| b) &&& a := by ext k; simp; tauto
    have hb : b = (a ||| b) &&& b := by ext k; simp; tauto
    constructor
    · rw [ha, ← BitVec.and_assoc, h, BitVec.and_assoc]
    · rw [hb, ← BitVec.and_assoc, h, BitVec.and_assoc]
  · rintro ⟨ha, hb⟩
    rw [BitVec.and_or_distrib_left, BitVec.and_or_distrib_left, ha, hb]

/-! ## The reserved bits of each format (30_encoding.md R51) -/

theorem wordWf_iff (w : Word) :
    wordWf w = true ↔ bits w 29 3 ≠ 0b000#3 ∧ w &&& reservedBits (bits w 29 3) = 0#32 := by
  simp [wordWf, bits]

theorem isFieldMask_reservedBits_init : IsFieldMask (reservedBits 0b001#3) 8 21 := by unfold IsFieldMask; decide

theorem isFieldMask_reservedBits_get : IsFieldMask (reservedBits 0b011#3) 0 24 := by unfold IsFieldMask; decide

theorem isFieldMask_reservedBits_map : IsFieldMask (reservedBits 0b110#3) 16 13 := by unfold IsFieldMask; decide

/-- CLEAR, WRITE and BSTART have no operands. -/
theorem isFieldMask_reservedBits_noOperands :
    ∀ op ∈ [0b100#3, 0b101#3, 0b111#3], IsFieldMask (reservedBits op) 0 29 := by
  unfold IsFieldMask; decide

theorem opcode_cases : ∀ op : BitVec 3, op = 0b000#3 ∨ op = 0b001#3 ∨ op = 0b010#3 ∨ op = 0b011#3 ∨ op = 0b100#3 ∨
    op = 0b101#3 ∨ op = 0b110#3 ∨ op = 0b111#3 := by decide

/-! ## What decoding answers -/

/-- Every row of `decode` but SET's has this shape: a command guarded by its reserved bits. -/
theorem guarded_eq_ok_iff {ε α : Type} {c : Prop} [Decidable c] {e : ε} {x y : α} :
    (if c then Except.ok x else Except.error e) = Except.ok y ↔ c ∧ x = y := by
  split_ifs with h <;> simp [h]

section

variable {w : Word} {i : Instr}

theorem decode_of_opcode_zero (h : bits w 29 3 = 0b000#3) : decode w = .error .reservedOpcode := by
  simp [decode, h]

theorem decode_eq_ok_iff_of_opcode_init (h : bits w 29 3 = 0b001#3) :
    decode w = .ok i ↔ bits w 8 21 = 0 ∧ .init (bits w 0 8) = i := by
  simp [decode, h, guarded_eq_ok_iff]

theorem decode_eq_ok_iff_of_opcode_set (h : bits w 29 3 = 0b010#3) :
    decode w = .ok i ↔ .set (bits w 24 5) (bits w 16 8) (bits w 8 8) (bits w 0 8) = i := by
  simp [decode, h]

theorem decode_eq_ok_iff_of_opcode_get (h : bits w 29 3 = 0b011#3) :
    decode w = .ok i ↔ bits w 0 24 = 0 ∧ .get (bits w 24 5) = i := by
  simp [decode, h, guarded_eq_ok_iff]

theorem decode_eq_ok_iff_of_opcode_clear (h : bits w 29 3 = 0b100#3) :
    decode w = .ok i ↔ bits w 0 29 = 0 ∧ .clear = i := by
  simp [decode, h, guarded_eq_ok_iff]

theorem decode_eq_ok_iff_of_opcode_write (h : bits w 29 3 = 0b101#3) :
    decode w = .ok i ↔ bits w 0 29 = 0 ∧ .write = i := by
  simp [decode, h, guarded_eq_ok_iff]

theorem decode_eq_ok_iff_of_opcode_map (h : bits w 29 3 = 0b110#3) :
    decode w = .ok i ↔ bits w 16 13 = 0 ∧ .map (bits w 8 8) (bits w 0 8) = i := by
  simp [decode, h, guarded_eq_ok_iff]

theorem decode_eq_ok_iff_of_opcode_bstart (h : bits w 29 3 = 0b111#3) :
    decode w = .ok i ↔ bits w 0 29 = 0 ∧ .bstart = i := by
  simp [decode, h, guarded_eq_ok_iff]

end

theorem exists_decode_ok_iff_wordWf (w : Word) : (∃ i, decode w = .ok i) ↔ wordWf w = true := by
  rw [wordWf_iff]
  rcases opcode_cases (bits w 29 3) with h | h | h | h | h | h | h | h <;> rw [h]
  · simp [decode_of_opcode_zero h]
  · simp [decode_eq_ok_iff_of_opcode_init h, and_eq_zero_iff_bits isFieldMask_reservedBits_init]
  · simp [decode_eq_ok_iff_of_opcode_set h, reservedBits]
  · simp [decode_eq_ok_iff_of_opcode_get h, and_eq_zero_iff_bits isFieldMask_reservedBits_get]
  · simp [decode_eq_ok_iff_of_opcode_clear h,
      and_eq_zero_iff_bits (isFieldMask_reservedBits_noOperands 0b100#3 (by decide))]
  · simp [decode_eq_ok_iff_of_opcode_write h,
      and_eq_zero_iff_bits (isFieldMask_reservedBits_noOperands 0b101#3 (by decide))]
  · simp [decode_eq_ok_iff_of_opcode_map h, and_eq_zero_iff_bits isFieldMask_reservedBits_map]
  · simp [decode_eq_ok_iff_of_opcode_bstart h,
      and_eq_zero_iff_bits (isFieldMask_reservedBits_noOperands 0b111#3 (by decide))]

theorem exists_decode_error_of_not_wordWf {w : Word} (hw : wordWf w = false) : ∃ e, decode w = .error e := by
  cases hd : decode w with
  | error e => exact ⟨e, rfl⟩
  | ok i => simp [(exists_decode_ok_iff_wordWf w).1 ⟨i, hd⟩] at hw

/-- The opcode of a command (30_encoding.md R49). -/
def opcodeOf : Instr → BitVec 3
  | .init _ => 0b001#3
  | .set _ _ _ _ => 0b010#3
  | .get _ => 0b011#3
  | .clear => 0b100#3
  | .write => 0b101#3
  | .map _ _ => 0b110#3
  | .bstart => 0b111#3

/-- The operands of a command are the fields of the word `w` (30_encoding.md R50). -/
def OperandsIn (w : Word) : Instr → Prop
  | .init pin => pin = bits w 0 8
  | .set idx r g b => idx = bits w 24 5 ∧ r = bits w 16 8 ∧ g = bits w 8 8 ∧ b = bits w 0 8
  | .get idx => idx = bits w 24 5
  | .map row col => row = bits w 8 8 ∧ col = bits w 0 8
  | .clear => True
  | .write => True
  | .bstart => True

theorem opcode_and_operands_of_decode {w : Word} {i : Instr} (hd : decode w = .ok i) :
    bits w 29 3 = opcodeOf i ∧ OperandsIn w i := by
  rcases opcode_cases (bits w 29 3) with h | h | h | h | h | h | h | h
  · simp [decode_of_opcode_zero h] at hd
  · obtain ⟨-, rfl⟩ := (decode_eq_ok_iff_of_opcode_init h).1 hd
    exact ⟨h, rfl⟩
  · obtain rfl := (decode_eq_ok_iff_of_opcode_set h).1 hd
    exact ⟨h, rfl, rfl, rfl, rfl⟩
  · obtain ⟨-, rfl⟩ := (decode_eq_ok_iff_of_opcode_get h).1 hd
    exact ⟨h, rfl⟩
  · obtain ⟨-, rfl⟩ := (decode_eq_ok_iff_of_opcode_clear h).1 hd
    exact ⟨h, trivial⟩
  · obtain ⟨-, rfl⟩ := (decode_eq_ok_iff_of_opcode_write h).1 hd
    exact ⟨h, trivial⟩
  · obtain ⟨-, rfl⟩ := (decode_eq_ok_iff_of_opcode_map h).1 hd
    exact ⟨h, rfl, rfl⟩
  · obtain ⟨-, rfl⟩ := (decode_eq_ok_iff_of_opcode_bstart h).1 hd
    exact ⟨h, trivial⟩

/-! ## The rows of the opcode map (30_encoding.md R49) -/

/-- The opcode of a row: the top three bits of its match. -/
def rowOpcode (row : OpRow) : BitVec 3 := bits row.pattern 29 3

theorem isFieldMask_opcode : IsFieldMask 0xE0000000#32 29 3 := by unfold IsFieldMask; decide

theorem rowOpcode_ne_zero : ∀ row ∈ opcodeMap, rowOpcode row ≠ 0b000#3 := by decide

theorem mask_eq_opcode_or_reservedBits :
    ∀ row ∈ opcodeMap, row.mask = 0xE0000000#32 ||| reservedBits (rowOpcode row) := by decide

theorem pattern_and_mask : ∀ row ∈ opcodeMap, row.pattern &&& row.mask = row.pattern := by decide

theorem pattern_and_reservedBits :
    ∀ row ∈ opcodeMap, row.pattern &&& reservedBits (rowOpcode row) = 0#32 := by decide

theorem selects_iff {row : OpRow} (hrow : row ∈ opcodeMap) (w : Word) :
    row.selects w = true ↔ rowOpcode row = bits w 29 3 ∧ wordWf w = true := by
  have hsplit : row.selects w = true ↔
      bits w 29 3 = rowOpcode row ∧ w &&& reservedBits (rowOpcode row) = 0#32 := by
    rw [OpRow.selects, decide_eq_true_iff, ← pattern_and_mask row hrow, mask_eq_opcode_or_reservedBits row hrow,
      and_or_eq_and_or_iff, and_eq_and_iff_bits isFieldMask_opcode, pattern_and_reservedBits row hrow, rowOpcode]
  rw [hsplit, wordWf_iff]
  constructor
  · rintro ⟨hop, h0⟩
    exact ⟨hop.symm, hop ▸ rowOpcode_ne_zero row hrow, hop ▸ h0⟩
  · rintro ⟨hop, -, h0⟩
    exact ⟨hop.symm, hop ▸ h0⟩

theorem filter_selects_of_wordWf {w : Word} (hw : wordWf w = true) :
    opcodeMap.filter (fun r => r.selects w) = opcodeMap.filter (fun r => rowOpcode r == bits w 29 3) := by
  refine List.filter_congr fun row hrow => ?_
  rw [Bool.eq_iff_iff, selects_iff hrow, beq_iff_eq]
  simp [hw]

theorem filter_selects_of_not_wordWf {w : Word} (hw : wordWf w = false) :
    opcodeMap.filter (fun r => r.selects w) = [] :=
  List.filter_eq_nil_iff.2 fun row hrow hsel => by simp [((selects_iff hrow w).1 hsel).2] at hw

theorem exists_row_of_command (i : Instr) :
    ∃ row, opcodeMap.filter (fun r => rowOpcode r == opcodeOf i) = [row] ∧ i.mnemonic = row.mnemonic := by
  cases i <;> exact ⟨_, rfl, rfl⟩

/-- Settles O4: a well-formed word has the one row of its opcode and decodes to that row's command; any other word has no
row and is illegal. -/
theorem decodeIsTheOpcodeMap : Obligations.DecodeIsTheOpcodeMap := by
  intro w
  cases hw : wordWf w with
  | true =>
    obtain ⟨i, hi⟩ := (exists_decode_ok_iff_wordWf w).2 hw
    obtain ⟨hop, hargs⟩ := opcode_and_operands_of_decode hi
    obtain ⟨row, hrow, hname⟩ := exists_row_of_command i
    refine .inl ⟨row, i, ?_, hi, hname, hargs⟩
    rw [filter_selects_of_wordWf hw, hop, hrow]
  | false => exact .inr ⟨filter_selects_of_not_wordWf hw, exists_decode_error_of_not_wordWf hw⟩

/-! ## The illegal words (30_encoding.md R51, R52) -/

theorem wordWf_of_opcode_set {w : Word} (h : bits w 29 3 = 0b010#3) : wordWf w = true :=
  (exists_decode_ok_iff_wordWf w).1 ⟨_, (decode_eq_ok_iff_of_opcode_set h).2 rfl⟩

theorem not_wordWf_of_opcode_zero {w : Word} (h : bits w 29 3 = 0b000#3) : wordWf w = false := by
  rw [Bool.eq_false_iff, Ne, wordWf_iff]
  exact fun hwf => hwf.1 h

theorem executeWord_of_not_wordWf {w : Word} (hw : wordWf w = false) (s : State) :
    executeWord w s = .next (raise .illegalCommand w s) := by
  obtain ⟨e, he⟩ := exists_decode_error_of_not_wordWf hw
  rw [executeWord, he]

/-- Settles O5: the words that decode are the well-formed ones, and executing any other is `raise` of sub-cause 5 alone. -/
theorem reservedBitsMakeAWordIllegal : Obligations.ReservedBitsMakeAWordIllegal :=
  ⟨exists_decode_ok_iff_wordWf, fun _ h => wordWf_of_opcode_set h, fun _ h => not_wordWf_of_opcode_zero h,
    fun w s hw => (executeWord_of_not_wordWf hw s).trans (congrArg _ (raise_eq .illegalCommand w s))⟩

end Sys2Proof.Encoding

/-! SUPPORT. The MAP unit's function is a bijection of the matrix onto 0..24 (40_mapper.md R63). The idea: dividing an index
by the side gives back the inverted row, and the remainder is the column as the serpentine runs it, so `unmapIndex`, which
reads exactly these two, undoes `mapIndex`. -/

namespace Sys2Proof.Mapper

open Sys2Proof Sys2Proof.Machine

/-! ## The index of a position and the position of an index -/

section
variable {row col k : Nat}

theorem mapIndex_eq :
    mapIndex row col = (4 - row) * 5 + if (4 - row) % 2 = 0 then 4 - col else 4 - (4 - col) :=
  (apply_ite ((4 - row) * 5 + ·) _ _ _).symm

theorem mapIndex_lt : mapIndex row col < 25 := by
  rw [mapIndex_eq]
  split <;> omega

theorem mapIndex_div_five : mapIndex row col / 5 = 4 - row := by
  rw [mapIndex_eq]
  split <;> omega

theorem mapIndex_mod_five (hc : col < 5) :
    mapIndex row col % 5 = if (4 - row) % 2 = 0 then 4 - col else col := by
  rw [mapIndex_eq]
  split <;> omega

theorem unmapIndex_fst : (unmapIndex k).1 = 4 - k / 5 := rfl

theorem unmapIndex_snd : (unmapIndex k).2 = if k / 5 % 2 = 0 then 4 - k % 5 else k % 5 := rfl

theorem unmapIndex_fst_lt : (unmapIndex k).1 < 5 := by
  rw [unmapIndex_fst]
  omega

theorem unmapIndex_snd_lt : (unmapIndex k).2 < 5 := by
  rw [unmapIndex_snd]
  split <;> omega

theorem unmapIndex_mapIndex (hr : row < 5) (hc : col < 5) : unmapIndex (mapIndex row col) = (row, col) := by
  refine Prod.ext ?_ ?_
  · rw [unmapIndex_fst, mapIndex_div_five]
    omega
  · rw [unmapIndex_snd, mapIndex_div_five, mapIndex_mod_five hc]
    split <;> omega

theorem mapIndex_unmapIndex (hk : k < 25) : mapIndex (unmapIndex k).1 (unmapIndex k).2 = k := by
  have hrow : 4 - (4 - k / 5) = k / 5 := by omega
  rw [mapIndex_eq, unmapIndex_fst, unmapIndex_snd, hrow]
  split <;> omega

end

/-! ## The grid -/

theorem cells_eq_product : cells = List.range 5 ×ˢ List.range 5 := rfl

theorem mem_cells {rc : Nat × Nat} : rc ∈ cells ↔ rc.1 < 5 ∧ rc.2 < 5 := by
  rw [cells_eq_product, List.mem_product, List.mem_range, List.mem_range]

theorem nodup_cells : cells.Nodup :=
  cells_eq_product ▸ List.nodup_range.product List.nodup_range

theorem nodup_map_mapIndex_cells : (cells.map fun rc => mapIndex rc.1 rc.2).Nodup := by
  refine nodup_cells.map_on fun p hp q hq h => ?_
  obtain ⟨hp1, hp2⟩ := mem_cells.1 hp
  obtain ⟨hq1, hq2⟩ := mem_cells.1 hq
  calc p = unmapIndex (mapIndex p.1 p.2) := (unmapIndex_mapIndex hp1 hp2).symm
    _ = unmapIndex (mapIndex q.1 q.2) := congrArg unmapIndex h
    _ = q := unmapIndex_mapIndex hq1 hq2

theorem mem_map_mapIndex_cells {k : Nat} : k ∈ cells.map (fun rc => mapIndex rc.1 rc.2) ↔ k < 25 := by
  rw [List.mem_map]
  constructor
  · rintro ⟨rc, -, rfl⟩
    exact mapIndex_lt
  · exact fun hk => ⟨unmapIndex k, mem_cells.2 ⟨unmapIndex_fst_lt, unmapIndex_snd_lt⟩, mapIndex_unmapIndex hk⟩

theorem map_mapIndex_cells_perm_range : (cells.map fun rc => mapIndex rc.1 rc.2).Perm (List.range 25) :=
  (List.perm_ext_iff_of_nodup nodup_map_mapIndex_cells List.nodup_range).2 fun _ =>
    mem_map_mapIndex_cells.trans List.mem_range.symm

/-- Settles O18: `unmapIndex` is a two-sided inverse of `mapIndex` on the matrix, so the grid's 25 indices are distinct and
are all of 0 to 24. -/
theorem mapIsABijection : Obligations.MapIsABijection :=
  ⟨fun _ hr _ hc => ⟨mapIndex_lt, unmapIndex_mapIndex hr hc⟩,
    fun _ hk => ⟨unmapIndex_fst_lt, unmapIndex_snd_lt, mapIndex_unmapIndex hk⟩,
    map_mapIndex_cells_perm_range⟩

end Sys2Proof.Mapper

/-! SUPPORT. INIT on an LMD that has its lane already (42_transport.md R80): the check of HANDLE.valid comes first, so the
claim of a lane plays no part in it. -/

namespace Sys2Proof.Transport

open Sys2Proof Sys2Proof.Machine

theorem exec_init (pin : BitVec 8) (s : State) : exec (.init pin) s = execInit pin s := rfl

/-- Of the three cases of INIT only the refused one has a valid HANDLE before it. -/
theorem execInit_of_handle_valid {s : State} (hv : s.handle.valid = true) (pin : BitVec 8) :
    execInit pin s = .next (raise .secondInit (encode (.init pin)) s) := by
  obtain ⟨-, hrefused⟩ | ⟨hinvalid, -⟩ | ⟨hinvalid, -⟩ := execInit_cases pin s
  · exact hrefused
  · simp [hv] at hinvalid
  · simp [hv] at hinvalid

/-- Settles O22: a valid HANDLE leaves INIT only the `raise` of sub-cause 3, which writes FAULT and CMDST alone. -/
theorem secondInitFaults : Obligations.SecondInitFaults := by
  intro s pin hv
  calc exec (.init pin) s = execInit pin s := exec_init pin s
    _ = .next (raise .secondInit (encode (.init pin)) s) := execInit_of_handle_valid hv pin
    _ = .next { s with fault := ⟨true, 2, 3, encode (.init pin)⟩, cmdst := .halted } :=
      congrArg _ (raise_eq .secondInit _ s)

end Sys2Proof.Transport

/-! SUPPORT. What a faulted LMD does until its reset (60_exceptions.md R101, R106, R108), and which fault a command with
several reports (R105). In Halted agent A has no step, so only the engine, the toggler and the environment are left to
move; the two statements about every list of moves read their invariant off that one inversion. -/

namespace Sys2Proof.Exceptions

open Sys2Proof Sys2Proof.Machine

/-! ## The moves of a halted machine -/

/-- What holds at the start and is kept by every move but a reset holds after any list of moves without a reset. -/
theorem performAll_keeps {P : State → Prop}
    (keeps : ∀ {m s t}, m ≠ .rst → P s → perform m s = .next t → P t) {ms : List Move} {s t : State}
    (hms : ∀ m ∈ ms, m ≠ .rst) (h : performAll ms s = .next t) (hs : P s) : P t := by
  induction ms generalizing s with
  | nil =>
    cases h
    exact hs
  | cons m ms ih =>
    obtain ⟨hm, hms⟩ := List.forall_mem_cons.1 hms
    rw [performAll] at h
    cases hp : perform m s with
    | next u => exact ih hms (by simpa only [hp] using h) (keeps hm hs hp)
    | fault e => simp [hp] at h
    | refused e => simp [hp] at h

/-- Everything a move but a reset can do in Halted: the toggler and the environment write their own fields, the engine of
an initialised LMD emits a byte, or the engine latches a whole frame. -/
theorem perform_cases_of_halted {m : Move} {s t : State} (hs : s.cmdst = .halted) (hm : m ≠ .rst)
    (h : perform m s = .next t) :
    (∃ l st log e, t = { s with blkLevel := l, stat := st, statlog := log, env := e }) ∨
    (s.handle.valid = true ∧ ∃ b q, s.txq = b :: q ∧
      t = { s with txq := q, wire := s.wire ++ [.byte b], engCnt := s.engCnt + 1, dout := .low }) ∨
    (s.engCnt = 75 ∧ t = { s with wire := s.wire ++ [.rst], engCnt := 0, dout := .low }) := by
  cases m with
  | exec | submit =>
    rw [perform_of_not_enabled (by simp [enabled, hs])] at h
    cases h
    exact .inl ⟨_, _, _, _, rfl⟩
  | emit =>
    cases h
    obtain ⟨-, heq⟩ | ⟨hv, -, -, b, q, hq, heq⟩ := emitByte_cases s
    · exact .inl ⟨_, _, _, _, heq⟩
    · exact .inr (.inl ⟨hv, b, q, hq, heq⟩)
  | latch =>
    cases h
    obtain ⟨-, heq⟩ | ⟨-, hc, heq⟩ := latchFrame_cases s
    · exact .inl ⟨_, _, _, _, heq⟩
    · exact .inr (.inr ⟨hc, heq⟩)
  | toggle =>
    cases h
    obtain ⟨-, heq⟩ | ⟨-, heq⟩ := toggleStat_cases s
    · exact .inl ⟨_, _, _, _, heq⟩
    · exact .inl ⟨_, _, _, _, heq.trans (driveStat_eq _ s)⟩
  | rst => exact absurd rfl hm
  | offer w | stall | setPoolFree p =>
    cases h
    exact .inl ⟨_, _, _, _, rfl⟩

/-! ## There is no return from a fault (60_exceptions.md R108) -/

/-- `s` is Halted with the fault record `f`. -/
def HaltedWith (f : FaultRecord) (s : State) : Prop := s.fault = f ∧ s.cmdst = .halted

theorem perform_keeps_haltedWith {f : FaultRecord} {m : Move} {s t : State} (hm : m ≠ .rst) (hs : HaltedWith f s)
    (h : perform m s = .next t) : HaltedWith f t := by
  obtain ⟨_, _, _, _, rfl⟩ | ⟨-, _, _, -, rfl⟩ | ⟨-, rfl⟩ := perform_cases_of_halted hs.2 hm h
  all_goals exact hs

/-- Settles O27: no move of a halted machine but a reset writes FAULT or CMDST; the reset table gives both. -/
theorem onlyResetLeavesHalted : Obligations.OnlyResetLeavesHalted :=
  ⟨fun _ _ _ hs hms h => performAll_keeps perform_keeps_haltedWith hms h ⟨rfl, hs⟩,
    fun s => ⟨assertReset s, rfl, rfl, rfl⟩⟩

/-! ## INIT with no free lane (60_exceptions.md R101) -/

theorem claimLane_of_no_free_lane {p : Pools}
    (hp : ∀ l < Config.lanes, p.primary.getLsbD l = false ∧ p.secondary.getLsbD l = false) (n : Nat) :
    claimLane Config.lanes n p = none := by
  obtain ⟨lane, -, hlane, hfree⟩ | ⟨lane, -, hlane, hfree, -⟩ | ⟨hnone, -⟩ := claimLane_cases n p lanes_le_four
  · simp [(hp _ hlane).1] at hfree
  · simp [(hp _ hlane).2] at hfree
  · exact hnone

theorem execInit_of_no_free_lane {s : State} (hv : s.handle.valid = false)
    (hp : ∀ l < Config.lanes, s.env.poolFree.primary.getLsbD l = false ∧ s.env.poolFree.secondary.getLsbD l = false)
    (pin : BitVec 8) : execInit pin s = .next (raise .resourceExhaustion (encode (.init pin)) s) := by
  obtain ⟨hvalid, -⟩ | ⟨-, pool, lane, hclaim, -⟩ | ⟨-, -, hraised⟩ := execInit_cases pin s
  · simp [hv] at hvalid
  · simp [claimLane_of_no_free_lane hp] at hclaim
  · exact hraised

/-- An uninitialised LMD that has halted having put `w` on the wire: neither EMIT nor LATCH is enabled. -/
structure SilentAfter (w : List WireEvent) (s : State) : Prop where
  halted : s.cmdst = .halted
  uninitialised : s.handle.valid = false
  noFrame : s.engCnt = 0
  wire : s.wire = w

theorem perform_keeps_silentAfter {w : List WireEvent} {m : Move} {s t : State} (hm : m ≠ .rst) (hs : SilentAfter w s)
    (h : perform m s = .next t) : SilentAfter w t := by
  obtain ⟨_, _, _, _, rfl⟩ | ⟨hvalid, -⟩ | ⟨hcount, -⟩ := perform_cases_of_halted hs.halted hm h
  · exact ⟨hs.halted, hs.uninitialised, hs.noFrame, hs.wire⟩
  · simp [hs.uninitialised] at hvalid
  · simp [hs.noFrame] at hcount

/-- The outcome of a `raise`, with the fields it writes (60_exceptions.md R106). -/
theorem eq_next_of_raise {o : Host.Outcome State Fault Refusal} {e : LmdError} {w : Word} {s : State}
    (h : o = .next (raise e w s)) :
    o = .next { s with fault := ⟨true, e.cause, e.sub, w⟩, cmdst := .halted } :=
  h.trans (congrArg _ (raise_eq e w s))

/-- Settles O23: neither pool has a lane to claim, and before INIT the engine has counted no byte (10_state.md R19), so
the halted machine has nothing to emit or to latch. -/
theorem noFreeLaneIsFatal : Obligations.NoFreeLaneIsFatal := by
  intro s pin hinv hv hp
  refine ⟨eq_next_of_raise (execInit_of_no_free_lane hv hp pin), fun ms t hms h => ?_⟩
  obtain ⟨-, hcount, -⟩ := hinv.queueGood.2 hv
  have ht : SilentAfter s.wire t := performAll_keeps perform_keeps_silentAfter hms h ⟨rfl, hv, hcount, rfl⟩
  exact ⟨ht.uninitialised, ht.wire⟩

/-! ## The order of the checks (60_exceptions.md R105) -/

theorem executeWord_of_decode_error {w : Word} {e : IllegalWord} (hd : decode w = .error e) (s : State) :
    executeWord w s = .next (raise .illegalCommand w s) := by
  rw [executeWord, hd]

/-- The commands that need an initialised LMD (60_exceptions.md R102, sub-cause 4). -/
def needsInit : Instr → Bool
  | .set _ _ _ _ | .get _ | .clear | .write => true
  | .init _ | .map _ _ | .bstart => false

/-- The initialisation state is checked before any operand. -/
theorem exec_of_uninitialised {s : State} (hv : s.handle.valid = false) {i : Instr} (hi : needsInit i = true) :
    exec i s = .next (raise .usedBeforeInit (encode i) s) := by
  have hne : s.handle.valid ≠ true := by simp [hv]
  cases i with
  | set idx r g b =>
    obtain ⟨-, hraised⟩ | ⟨hvalid, -⟩ | ⟨hvalid, -⟩ := execSet_cases idx r g b s
    · exact hraised
    all_goals exact absurd hvalid hne
  | get idx =>
    obtain ⟨-, hraised⟩ | ⟨hvalid, -⟩ | ⟨hvalid, -⟩ | ⟨hvalid, -⟩ := execGet_cases idx s
    · exact hraised
    all_goals exact absurd hvalid hne
  | clear => exact (execClear_cases s).elim And.right fun h => absurd h.1 hne
  | write => exact (execWrite_cases s).elim And.right fun h => absurd h.1 hne
  | init pin | map row col | bstart => simp [needsInit] at hi

section
variable {s : State} {idx : BitVec 5} (hv : s.handle.valid = true) (hidx : 25 ≤ idx.toNat)
include hv hidx

theorem execSet_of_index_out_of_range (r g b : Byte) :
    execSet idx r g b s = .next (raise .indexOutOfRange (encode (.set idx r g b)) s) := by
  obtain ⟨hinvalid, -⟩ | ⟨-, hlt, -⟩ | ⟨-, -, hraised⟩ := execSet_cases idx r g b s
  · simp [hv] at hinvalid
  · omega
  · exact hraised

theorem execGet_of_index_out_of_range : execGet idx s = .next (raise .indexOutOfRange (encode (.get idx)) s) := by
  obtain ⟨hinvalid, -⟩ | ⟨-, hlt, -⟩ | ⟨-, hlt, -⟩ | ⟨-, -, hraised⟩ := execGet_cases idx s
  · simp [hv] at hinvalid
  · omega
  · omega
  · exact hraised

end

theorem execMap_of_off_the_matrix {row col : BitVec 8} (h : 4 < row.toNat ∨ 4 < col.toNat) (s : State) :
    execMap row col s = .next (raise .coordinateOutOfRange (encode (.map row col)) s) := by
  obtain ⟨hrow, hcol, -⟩ | ⟨-, hraised⟩ := execMap_cases row col s
  · omega
  · exact hraised

/-- Settles O24: an illegal word is no command, so no command's check is reached; SET, GET, CLEAR and WRITE ask for INIT
first and for the index second, INIT for a second INIT first and for a lane second, and MAP for the position alone. -/
theorem checkOrder : Obligations.CheckOrder := by
  refine ⟨fun w s e hd => ?illegal, fun s idx r g b hv _ => ?uninitialised,
    fun s hv => ?uninitialisedFlush, fun s idx r g b hv hidx => ?index,
    fun s pin hv _ => ?secondInit, fun s pin hv hp => ?noLane, fun s row col h => ?position⟩
  case illegal => exact eq_next_of_raise (executeWord_of_decode_error hd s)
  case uninitialised | uninitialisedFlush =>
    exact ⟨eq_next_of_raise (exec_of_uninitialised hv rfl), eq_next_of_raise (exec_of_uninitialised hv rfl)⟩
  case index =>
    exact ⟨eq_next_of_raise (execSet_of_index_out_of_range hv hidx r g b),
      eq_next_of_raise (execGet_of_index_out_of_range hv hidx)⟩
  case secondInit => exact eq_next_of_raise (Transport.execInit_of_handle_valid hv pin)
  case noLane => exact eq_next_of_raise (execInit_of_no_free_lane hv (by simp [hp]) pin)
  case position => exact eq_next_of_raise (execMap_of_off_the_matrix h s)

end Sys2Proof.Exceptions

/-! SUPPORT. The encoder and the decoder undo each other, and the assembler is the encoder (30_encoding.md R48 to R50,
R54, R57). A word is its fields side by side, so a command's word can be read field by field and put together again;
and the sum by which a line of the assembler is valued is that same row of fields, read as a number. -/

namespace Sys2Proof.RoundTrip

open Sys2Proof Sys2Proof.Machine Sys2Proof.Encoding

/-- Settles O2: the encoder lays the fields out where the decoder of that opcode reads them. -/
theorem decodeOfEncode : Obligations.DecodeOfEncode := by
  intro i
  cases i with
  | init pin =>
    obtain ⟨hop, hzero, hpin⟩ := encode_init_fields pin
    exact (decode_eq_ok_iff_of_opcode_init hop).2 ⟨hzero, by rw [hpin]⟩
  | set idx r g b =>
    obtain ⟨hop, hidx, hr, hg, hb⟩ := encode_set_fields idx r g b
    exact (decode_eq_ok_iff_of_opcode_set hop).2 (by rw [hidx, hr, hg, hb])
  | get idx =>
    obtain ⟨hop, hzero, hidx⟩ := encode_get_fields idx
    exact (decode_eq_ok_iff_of_opcode_get hop).2 ⟨hzero, by rw [hidx]⟩
  | clear => exact (decode_eq_ok_iff_of_opcode_clear (by decide)).2 ⟨by decide, rfl⟩
  | write => exact (decode_eq_ok_iff_of_opcode_write (by decide)).2 ⟨by decide, rfl⟩
  | map row col =>
    obtain ⟨hop, hzero, hrow, hcol⟩ := encode_map_fields row col
    exact (decode_eq_ok_iff_of_opcode_map hop).2 ⟨hzero, by rw [hrow, hcol]⟩
  | bstart => exact (decode_eq_ok_iff_of_opcode_bstart (by decide)).2 ⟨by decide, rfl⟩

/-! ## A word is its fields side by side -/

theorem bits_append_bits (w : Word) (hi len' lo len : Nat) (hhi : hi = lo + len) :
    bits w hi len' ++ bits w lo len = bits w lo (len' + len) :=
  (BitVec.extractLsb'_append_extractLsb'_eq_extractLsb' hhi).trans (by simp [bits])

theorem bits_whole (w : Word) : bits w 0 32 = w := BitVec.extractLsb'_eq_self

section

variable (w : Word)

theorem append_fields_init : bits w 29 3 ++ bits w 8 21 ++ bits w 0 8 = w := by
  rw [bits_append_bits w 29 3 8 21 rfl, bits_append_bits w 8 24 0 8 rfl, bits_whole]

theorem append_fields_set :
    bits w 29 3 ++ bits w 24 5 ++ bits w 16 8 ++ bits w 8 8 ++ bits w 0 8 = w := by
  rw [bits_append_bits w 29 3 24 5 rfl, bits_append_bits w 24 8 16 8 rfl, bits_append_bits w 16 16 8 8 rfl,
    bits_append_bits w 8 24 0 8 rfl, bits_whole]

theorem append_fields_get : bits w 29 3 ++ bits w 24 5 ++ bits w 0 24 = w := by
  rw [bits_append_bits w 29 3 24 5 rfl, bits_append_bits w 24 8 0 24 rfl, bits_whole]

theorem append_fields_noOperands : bits w 29 3 ++ bits w 0 29 = w := by
  rw [bits_append_bits w 29 3 0 29 rfl, bits_whole]

theorem append_fields_map : bits w 29 3 ++ bits w 16 13 ++ bits w 8 8 ++ bits w 0 8 = w := by
  rw [bits_append_bits w 29 3 16 13 rfl, bits_append_bits w 16 16 8 8 rfl, bits_append_bits w 8 24 0 8 rfl,
    bits_whole]

end

/-- Settles O3: the fields a decoder reads or checks are the whole word, and the encoder puts them back in their
places. -/
theorem encodeOfDecode : Obligations.EncodeOfDecode := by
  intro w i hd
  rcases opcode_cases (bits w 29 3) with h | h | h | h | h | h | h | h
  · simp [decode_of_opcode_zero h] at hd
  · obtain ⟨hzero, rfl⟩ := (decode_eq_ok_iff_of_opcode_init h).1 hd
    exact .trans (by rw [h, hzero]; rfl) (append_fields_init w)
  · obtain rfl := (decode_eq_ok_iff_of_opcode_set h).1 hd
    exact .trans (by rw [h]; rfl) (append_fields_set w)
  · obtain ⟨hzero, rfl⟩ := (decode_eq_ok_iff_of_opcode_get h).1 hd
    exact .trans (by rw [h, hzero]; rfl) (append_fields_get w)
  · obtain ⟨hzero, rfl⟩ := (decode_eq_ok_iff_of_opcode_clear h).1 hd
    exact .trans (by rw [h, hzero]; rfl) (append_fields_noOperands w)
  · obtain ⟨hzero, rfl⟩ := (decode_eq_ok_iff_of_opcode_write h).1 hd
    exact .trans (by rw [h, hzero]; rfl) (append_fields_noOperands w)
  · obtain ⟨hzero, rfl⟩ := (decode_eq_ok_iff_of_opcode_map h).1 hd
    exact .trans (by rw [h, hzero]; rfl) (append_fields_map w)
  · obtain ⟨hzero, rfl⟩ := (decode_eq_ok_iff_of_opcode_bstart h).1 hd
    exact .trans (by rw [h, hzero]; rfl) (append_fields_noOperands w)

/-- Settles O1: nine closed words. -/
theorem specWordsDecode : Obligations.SpecWordsDecode := by
  unfold Obligations.SpecWordsDecode
  decide

/-! ## The assembler (30_encoding.md R54) -/

/-- Fields side by side, as a number. -/
theorem toNat_append_eq {m n : Nat} (x : BitVec m) (y : BitVec n) : (x ++ y).toNat = x.toNat * 2 ^ n + y.toNat := by
  rw [BitVec.toNat_append, ← Nat.shiftLeft_add_eq_or_of_lt y.isLt, Nat.shiftLeft_eq]

/-- A line whose operands fit has its command's word as its value. -/
theorem assemble_eq_ite {line : AsmLine} {w : Word} {fits : Prop} [Decidable fits] (hwf : line.wf = true ↔ fits)
    (hvalue : fits → line.value = w.toNat) : assemble line = if fits then some w else none := by
  by_cases h : fits
  · rw [assemble, if_pos (hwf.2 h), if_pos h, hvalue h, BitVec.ofNat_toNat, BitVec.setWidth_eq]
  · rw [assemble, if_neg (mt hwf.1 h), if_neg h]

/-- Settles O6: under the bound of its field a numeral is the field's number, so the sum of a line is its row of
fields. -/
theorem assemblerMatchesEncoder : Obligations.AssemblerMatchesEncoder := by
  refine ⟨fun pin => ?init, fun idx r g b => ?set, fun idx => ?get, by decide, by decide, fun row col => ?map,
    by decide, fun w => ?word⟩
  case word => simp [assemble, AsmLine.wf, AsmLine.value]
  all_goals
    refine assemble_eq_ite (by simp [AsmLine.wf, and_assoc]) fun h => ?_
    simp only [AsmLine.value, encode, toNat_append_eq, BitVec.toNat_ofNat]
    omega

end Sys2Proof.RoundTrip

/-! SUPPORT. Everything a command and a move can do, said once as two inductive relations (00_scope.md R8). The
statements about every move are read off by cases over them: each names the few effects that write the field in
question. -/

namespace Sys2Proof.Effects

open Sys2Proof Sys2Proof.Machine

/-! ## The inversion of a command and of a move -/

/-- `CommandEffect s i t`: the command `i` can take `s` to `t`. -/
inductive CommandEffect (s : State) : Instr → State → Prop
  | raised (i : Instr) (e : LmdError) : CommandEffect s i (raise e (encode i) s)
  | laneTaken (pin : BitVec 8) (pool : BitVec 1) (lane : BitVec 2) (hv : s.handle.valid = false) :
      CommandEffect s (.init pin) (takeLane pool lane pin s)
  | elementSet (idx : BitVec 5) (r g b : Byte) (hv : s.handle.valid = true) (hidx : idx.toNat < 25) :
      CommandEffect s (.set idx r g b) { s with fb := Memory.write s.fb idx.toNat ⟨r, g, b⟩ }
  | elementRead (idx : BitVec 5) (p : Pixel) (hv : s.handle.valid = true) (hp : Memory.read s.fb idx.toNat = some p) :
      CommandEffect s (.get idx) (respond (packPixel p) s)
  | cleared (hv : s.handle.valid = true) : CommandEffect s .clear (beginFlush { s with fb := Memory.zeroed })
  | flushBegun (hv : s.handle.valid = true) : CommandEffect s .write (beginFlush s)
  | positionMapped (row col : BitVec 8) :
      CommandEffect s (.map row col) (respond (BitVec.ofNat 24 (mapIndex row.toNat col.toNat)) s)
  | startedAlready (hb : s.blkStarted = true) : CommandEffect s .bstart s
  | started (hb : s.blkStarted = false) : CommandEffect s .bstart (driveStat .high { s with blkStarted := true })

theorem commandEffect_of_exec {i : Instr} {s t : State} (h : exec i s = .next t) : CommandEffect s i t := by
  cases i with
  | init pin =>
    replace h : execInit pin s = .next t := h
    obtain ⟨-, heq⟩ | ⟨hv, pool, lane, -, heq⟩ | ⟨-, -, heq⟩ := execInit_cases pin s <;> cases heq.symm.trans h
    · exact .raised _ _
    · exact .laneTaken pin pool lane hv
    · exact .raised _ _
  | set idx r g b =>
    replace h : execSet idx r g b s = .next t := h
    obtain ⟨-, heq⟩ | ⟨hv, hidx, heq⟩ | ⟨-, -, heq⟩ := execSet_cases idx r g b s <;> cases heq.symm.trans h
    · exact .raised _ _
    · exact .elementSet idx r g b hv hidx
    · exact .raised _ _
  | get idx =>
    replace h : execGet idx s = .next t := h
    obtain ⟨-, heq⟩ | ⟨hv, -, p, hp, heq⟩ | ⟨-, -, -, heq⟩ | ⟨-, -, heq⟩ := execGet_cases idx s <;>
      cases heq.symm.trans h
    · exact .raised _ _
    · exact .elementRead idx p hv hp
    · exact .raised _ _
  | clear =>
    replace h : execClear s = .next t := h
    obtain ⟨-, heq⟩ | ⟨hv, heq⟩ := execClear_cases s <;> cases heq.symm.trans h
    · exact .raised _ _
    · exact .cleared hv
  | write =>
    replace h : execWrite s = .next t := h
    obtain ⟨-, heq⟩ | ⟨hv, heq⟩ := execWrite_cases s <;> cases heq.symm.trans h
    · exact .raised _ _
    · exact .flushBegun hv
  | map row col =>
    replace h : execMap row col s = .next t := h
    obtain ⟨-, -, heq⟩ | ⟨-, heq⟩ := execMap_cases row col s <;> cases heq.symm.trans h
    · exact .positionMapped row col
    · exact .raised _ _
  | bstart =>
    replace h : execBstart s = .next t := h
    obtain ⟨hb, heq⟩ | ⟨hb, heq⟩ := execBstart_cases s <;> cases heq.symm.trans h
    · exact .startedAlready hb
    · exact .started hb

/-- `MoveEffect s m t`: the move `m` can take `s` to `t`. -/
inductive MoveEffect (s : State) : Move → State → Prop
  | disabled (m : Move) (hoff : enabled m s = false) : MoveEffect s m s
  | illegalWord (w : Word) (ws : List Word) (hidle : s.cmdst = .idle) :
      MoveEffect s .exec (raise .illegalCommand w (acceptCommand ws s))
  | command (ws : List Word) (i : Instr) (t : State) (hidle : s.cmdst = .idle) (hport : commandAtPort s = some i)
      (heffect : CommandEffect (acceptCommand ws s) i t) : MoveEffect s .exec t
  | byteSubmitted (p : Pixel) (c : Scan) (hflushing : s.cmdst = .flushing) (hroom : s.txq.length < Config.txqDepth)
      (hp : Memory.read s.fb s.scan.i.val = some p)
      (hc : 3 * c.i.val + phaseNumber c.ch = 3 * s.scan.i.val + phaseNumber s.scan.ch + 1) :
      MoveEffect s .submit { s with txq := s.txq ++ [channelOf p s.scan.ch], scan := c }
  | lastByteSubmitted (p : Pixel) (hflushing : s.cmdst = .flushing) (hroom : s.txq.length < Config.txqDepth)
      (hp : Memory.read s.fb s.scan.i.val = some p) (hlast : s.scan.ch = .blue ∧ s.scan.i.val = 24) :
      MoveEffect s .submit { s with txq := s.txq ++ [channelOf p s.scan.ch], cmdst := .idle }
  | byteEmitted (b : Byte) (q : List Byte) (hv : s.handle.valid = true) (hunstalled : s.env.stall = false)
      (hcnt : s.engCnt < 75) (hq : s.txq = b :: q) :
      MoveEffect s .emit { s with txq := q, wire := s.wire ++ [.byte b], engCnt := s.engCnt + 1, dout := .low }
  | frameLatched (hunstalled : s.env.stall = false) (hcnt : s.engCnt = 75) :
      MoveEffect s .latch { s with wire := s.wire ++ [.rst], engCnt := 0, dout := .low }
  | toggled (hb : s.blkStarted = true) : MoveEffect s .toggle (driveStat (flipLevel s.blkLevel) s)
  | reset : MoveEffect s .rst (assertReset s)
  | offered (w : Word) : MoveEffect s (.offer w) (offerWord w s)
  | stalled : MoveEffect s .stall (beginStall s)
  | poolFreeSet (p : Pools) : MoveEffect s (.setPoolFree p) (supplyPoolFree p s)

theorem moveEffect_of_perform {m : Move} {s t : State} (h : perform m s = .next t) : MoveEffect s m t := by
  cases hen : enabled m s with
  | false =>
    cases (perform_of_not_enabled hen).symm.trans h
    exact .disabled m hen
  | true =>
    cases m with
    | exec =>
      obtain ⟨hidle, hword⟩ := (enabled_exec s).1 hen
      replace h : execCommand s = .next t := h
      obtain ⟨hoff, -⟩ | ⟨w, ws, -, -, -, -, heq, -⟩ | ⟨-, ws, i, -, -, -, heq, hport⟩ := execCommand_cases s
      · exact (hoff.elim (· hidle) hword).elim
      · cases heq.symm.trans h
        exact .illegalWord w ws hidle
      · exact .command ws i t hidle hport (commandEffect_of_exec (heq.symm.trans h))
    | submit =>
      replace h : submitByte Config.txqDepth s = .next t := h
      obtain ⟨hoff, -⟩ | ⟨hflushing, hroom, p, hp, heq⟩ | ⟨-, -, -, heq⟩ := submitByte_cases Config.txqDepth s
      · exact absurd ((enabled_submit s).1 hen) hoff
      · cases heq.symm.trans h
        obtain ⟨c, hc, -, hadv⟩ | ⟨hblue, hi, hadv⟩ :=
          advanceScan_cases { s with txq := s.txq ++ [channelOf p s.scan.ch] }
        · exact hadv ▸ .byteSubmitted p c hflushing hroom hp hc
        · exact hadv ▸ .lastByteSubmitted p hflushing hroom hp ⟨hblue, hi⟩
      · cases heq.symm.trans h
    | emit =>
      cases h
      obtain ⟨hoff, -⟩ | ⟨hv, hunstalled, hcnt, b, q, hq, heq⟩ := emitByte_cases s
      · exact absurd ((enabled_emit s).1 hen) hoff
      · exact heq ▸ .byteEmitted b q hv hunstalled hcnt hq
    | latch =>
      cases h
      obtain ⟨hoff, -⟩ | ⟨hunstalled, hcnt, heq⟩ := latchFrame_cases s
      · exact absurd ((enabled_latch s).1 hen) hoff
      · exact heq ▸ .frameLatched hunstalled hcnt
    | toggle =>
      cases h
      obtain ⟨hoff, -⟩ | ⟨hb, heq⟩ := toggleStat_cases s
      · exact absurd (((enabled_toggle s).1 hen).symm.trans hoff) (by decide)
      · exact heq ▸ .toggled hb
    | offer w => cases h; exact .offered w
    | rst => cases h; exact .reset
    | stall => cases h; exact .stalled
    | setPoolFree p => cases h; exact .poolFreeSet p

end Sys2Proof.Effects

/-! SUPPORT. What no move but a few named ones changes: FAULT, the frame buffer, HANDLE, RES, WIRE and the submitted
bytes (10_state.md R16, R20, R26; 20_memory.md R40, R41; 41_pixelbuffer.md R68; 60_exceptions.md R107). -/

namespace Sys2Proof.Writers

open Sys2Proof Sys2Proof.Machine Sys2Proof.Effects

/-! ## FAULT and CMDST -/

theorem eq_raise_of_commandEffect {i : Instr} {s t : State} (h : CommandEffect s i t) (hs : s.cmdst = .idle)
    (ht : t.cmdst = .halted) : ∃ e, t = raise e (encode i) s := by
  cases h with
  | raised _ e => exact ⟨e, rfl⟩
  | cleared | flushBegun => simp [beginFlush] at ht
  | _ => exact absurd (hs.symm.trans ht) (by decide)

theorem fault_unchanged_of_moveEffect {m : Move} {s t : State} (h : MoveEffect s m t) (hexec : m ≠ .exec)
    (hrst : m ≠ .rst) : t.fault = s.fault ∧ (t.cmdst = .halted → s.cmdst = .halted) := by
  cases h with
  | illegalWord | command => exact absurd rfl hexec
  | reset => exact absurd rfl hrst
  | lastByteSubmitted => exact ⟨rfl, fun h => by simp at h⟩
  | _ => exact ⟨rfl, id⟩

/-- Settles O26: of all a command can do only the `raise` halts, and it writes FAULT and CMDST alone. -/
theorem faultsArePrecise : Obligations.FaultsArePrecise := by
  refine ⟨fun i s t hs h ht => ?_, fun m s t hexec hrst h =>
    fault_unchanged_of_moveEffect (moveEffect_of_perform h) hexec hrst⟩
  obtain ⟨e, rfl⟩ := eq_raise_of_commandEffect (commandEffect_of_exec h) hs ht
  exact raise_eq e _ s

/-! ## The frame buffer -/

/-- Settles O42: the effects that write FB are those of a reset and of these three commands. -/
theorem onlyInitSetClearWriteTheBuffer : Obligations.OnlyInitSetClearWriteTheBuffer := by
  intro m s t h hne hrst
  cases moveEffect_of_perform h with
  | command ws i t hidle hport heffect =>
    refine ⟨rfl, i, hport, ?_⟩
    cases heffect with
    | laneTaken pin => exact .inl ⟨pin, rfl⟩
    | elementSet idx r g b => exact .inr (.inl ⟨idx, r, g, b, rfl⟩)
    | cleared => exact .inr (.inr rfl)
    | _ => exact absurd rfl hne
  | reset => exact absurd rfl hrst
  | _ => exact absurd rfl hne

theorem commandAtPort_of_not_idle {s : State} (hs : s.cmdst ≠ .idle) : commandAtPort s = none := by
  simp [commandAtPort, hs]

/-- Settles O51: a change of FB needs a command at the port, and the port is closed during a flush. -/
theorem flushIsASnapshot : Obligations.FlushIsASnapshot := by
  intro m s t hs hrst h
  by_contra hne
  obtain ⟨-, i, hport, -⟩ := onlyInitSetClearWriteTheBuffer m s t h hne hrst
  rw [commandAtPort_of_not_idle (by simp [hs])] at hport
  cases hport

theorem memory_wf_of_moveEffect {m : Move} {s t : State} (h : MoveEffect s m t) (hs : Memory.wf s.fb) :
    Memory.wf t.fb := by
  cases h with
  | command ws i t hidle hport heffect =>
    cases heffect with
    | elementSet idx r g b hv hidx => exact Memory.wf_write _ hidx hs
    | laneTaken | cleared => exact Memory.wf_zeroed
    | _ => exact hs
  | reset => exact Memory.wf_reset
  | _ => exact hs

/-- Settles O41: the effects that write FB leave it canonical, each by its law. -/
theorem memoryStaysCanonical : Obligations.MemoryStaysCanonical := by
  intro s t hs h
  obtain ⟨ms, n, heq⟩ := consumeMove_eq s
  exact memory_wf_of_moveEffect (moveEffect_of_perform h) (heq ▸ hs)

/-! ## HANDLE, the toggler and RES -/

/-- Settles O43: INIT takes a lane only where HANDLE is not valid, and no effect but a reset clears BLK.started. -/
theorem onlyResetReleasesTheLane : Obligations.OnlyResetReleasesTheLane := by
  intro m s t h hrst
  cases moveEffect_of_perform h with
  | command ws i t hidle hport heffect =>
    cases heffect with
    | laneTaken pin pool lane hv => exact ⟨fun hvalid => absurd (hv.symm.trans hvalid) (by decide), id⟩
    | started => exact ⟨fun _ => rfl, fun _ => rfl⟩
    | _ => exact ⟨fun _ => rfl, id⟩
  | reset => exact absurd rfl hrst
  | _ => exact ⟨fun _ => rfl, id⟩

/-- Settles O44: the effects that write RES are the two that respond, and they respond with what they write. -/
theorem onlyGetAndMapWriteRes : Obligations.OnlyGetAndMapWriteRes := by
  intro m s t h hne hrst
  cases moveEffect_of_perform h with
  | command ws i t hidle hport heffect =>
    cases heffect with
    | elementRead idx p => exact ⟨rfl, rfl, _, hport, .inl ⟨idx, rfl⟩⟩
    | positionMapped row col => exact ⟨rfl, rfl, _, hport, .inr ⟨row, col, rfl⟩⟩
    | _ => exact absurd rfl hne
  | reset => exact absurd rfl hrst
  | _ => exact absurd rfl hne

/-! ## WIRE and the bytes handed over -/

/-- Settles O48: the effects that write WIRE are a byte emitted and a frame latched. -/
theorem onlyTheEngineWritesTheWire : Obligations.OnlyTheEngineWritesTheWire := by
  intro m s t h hne hrst
  cases moveEffect_of_perform h with
  | command ws i t hidle hport heffect => cases heffect <;> exact absurd rfl hne
  | byteEmitted b q _ _ _ hq => exact .inl ⟨rfl, b, by simp [hq], rfl⟩
  | frameLatched => exact .inr ⟨rfl, rfl⟩
  | reset => exact absurd rfl hrst
  | _ => exact absurd rfl hne

theorem wireBytes_append (es fs : List WireEvent) : wireBytes (es ++ fs) = wireBytes es ++ wireBytes fs := by
  induction es with
  | nil => rfl
  | cons e es ih => cases e <;> simp [wireBytes, ih]

@[simp] theorem wireBytes_append_byte (es : List WireEvent) (b : Byte) :
    wireBytes (es ++ [.byte b]) = wireBytes es ++ [b] := wireBytes_append es _

@[simp] theorem wireBytes_append_rst (es : List WireEvent) : wireBytes (es ++ [.rst]) = wireBytes es :=
  (wireBytes_append es _).trans (List.append_nil _)

/-- Settles O49: EMIT moves the first byte that waits to the end of those sent, and SUBMIT adds one behind them all. -/
theorem bytesKeepTheirOrder : Obligations.BytesKeepTheirOrder := by
  intro m s t h hrst
  refine ⟨List.prefix_append _ _, ?_⟩
  cases moveEffect_of_perform h with
  | command ws i t hidle hport heffect => cases heffect <;> exact .inl rfl
  | byteSubmitted | lastByteSubmitted => exact .inr ⟨rfl, _, (List.append_assoc _ _ _).symm⟩
  | byteEmitted b q _ _ _ hq => exact .inl (by simp [submitted, hq])
  | frameLatched => exact .inl (by simp [submitted])
  | reset => exact absurd rfl hrst
  | _ => exact .inl rfl

end Sys2Proof.Writers

/-! SUPPORT. The toggler (43_status_blinker.md R86, R88): what it does rests on its own state, and nothing but TOGGLE,
BSTART and a reset writes that. -/

namespace Sys2Proof.Toggler

open Sys2Proof Sys2Proof.Machine Sys2Proof.Effects

theorem togglerView_toggleStat (s : State) :
    togglerView (toggleStat s) =
      if s.blkStarted then (true, flipLevel s.blkLevel, flipLevel s.blkLevel, s.statlog ++ [flipLevel s.blkLevel])
      else togglerView s := by
  obtain ⟨hb, heq⟩ | ⟨hb, heq⟩ := toggleStat_cases s
  · simp [heq, hb]
  · simp [heq, hb, togglerView, driveStat_eq]

theorem togglerView_of_moveEffect {m : Move} {s t : State} (h : MoveEffect s m t)
    (hne : togglerView t ≠ togglerView s) (htoggle : m ≠ .toggle) (hrst : m ≠ .rst) :
    m = .exec ∧ commandAtPort s = some .bstart ∧ s.blkStarted = false := by
  cases h with
  | command ws i t hidle hport heffect =>
    cases heffect with
    | started hb => exact ⟨rfl, hport, hb⟩
    | _ => exact absurd rfl hne
  | toggled => exact absurd rfl htoggle
  | reset => exact absurd rfl hrst
  | _ => exact absurd rfl hne

/-- Settles O46: TOGGLE is a function of what B sees, and that is written by TOGGLE, a reset and BSTART alone. -/
theorem togglerCannotSeeTheTransport : Obligations.TogglerCannotSeeTheTransport := by
  refine ⟨fun s s' h => ?_, fun m s t h hne htoggle hrst => ?_⟩
  · have hview : togglerView (toggleStat s) = togglerView (toggleStat s') := by
      rw [togglerView_toggleStat, togglerView_toggleStat, h]
      simp only [togglerView, Prod.mk.injEq] at h
      obtain ⟨hb, hlevel, -, hlog⟩ := h
      rw [hb, hlevel, hlog]
    exact congrArg Host.Outcome.next hview
  · obtain ⟨hexec, hport, -⟩ := togglerView_of_moveEffect (moveEffect_of_perform h) hne htoggle hrst
    exact ⟨hexec, hport⟩

/-- STATLOG grows at its end. -/
theorem alternate_succ (l : Level) (n : Nat) :
    alternate l (n + 1) = alternate l n ++ [if n % 2 = 0 then l else flipLevel l] := by
  induction n generalizing l with
  | zero => rfl
  | succ n ih =>
    have hflip : flipLevel (flipLevel l) = l := by cases l <;> rfl
    rw [alternate, ih, alternate, List.cons_append, hflip]
    rcases Nat.mod_two_eq_zero_or_one n with h | h <;> simp [h, Nat.add_mod]

/-- In a good state with the toggler started STAT is the level the length of STATLOG says. -/
theorem stat_eq_of_togglerGood {s : State} (hs : TogglerGood s) (hb : s.blkStarted = true) :
    s.stat = if s.statlog.length % 2 = 1 then .high else .low := by
  obtain ⟨halt, hstarted, hlast⟩ := hs
  obtain ⟨n, hn⟩ := Nat.exists_eq_succ_of_ne_zero (mt List.length_eq_zero_iff.1 (hstarted.1 hb))
  have hstat := (hlast hb).2
  rw [halt, hn, Nat.succ_eq_add_one, alternate_succ, List.getLast?_concat, Option.some.injEq] at hstat
  rw [← hstat, hn]
  rcases Nat.mod_two_eq_zero_or_one n with h | h <;> simp [h, Nat.add_mod, flipLevel]

/-- Settles O36: once BSTART has started the toggler only TOGGLE and a reset write what it sees, and a STATLOG that
alternates from HIGH ends with HIGH at the odd lengths. -/
theorem toggleFlipsTheStatusPin : Obligations.ToggleFlipsTheStatusPin := by
  refine ⟨fun s hb => ⟨flipLevel s.blkLevel, flipLevel_ne _, ?_⟩, fun s hb => ?_,
    fun m s t hb h htoggle hrst => ?_, fun s hs hb => ⟨hs.togglerGood.1, ?_⟩⟩
  · obtain ⟨hnot, -⟩ | ⟨-, heq⟩ := toggleStat_cases s
    · simp [hb] at hnot
    · exact congrArg _ (heq.trans (driveStat_eq _ s))
  · exact perform_of_not_enabled hb
  · by_contra hne
    obtain ⟨-, -, hnot⟩ := togglerView_of_moveEffect (moveEffect_of_perform h)
      (fun hview => hne (congrArg (fun v => v.2.2.1) hview)) htoggle hrst
    simp [hb] at hnot
  · rw [stat_eq_of_togglerGood hs.togglerGood hb]
    split <;> simp [*]

end Sys2Proof.Toggler

/-! SUPPORT. What each command does and leaves unchanged, one lemma per command that succeeds (40_mapper.md,
41_pixelbuffer.md, 42_transport.md section 1, 43_status_blinker.md); the refusals are in Exceptions and Transport. -/

namespace Sys2Proof.Commands

open Sys2Proof Sys2Proof.Machine Sys2Proof.Effects Sys2Proof.Exceptions

/-! ## A command that succeeds -/

section
variable {s : State}

theorem execInit_of_claim (hv : s.handle.valid = false) {pool : BitVec 1} {lane : BitVec 2}
    (hclaim : claimLane Config.lanes (Config.pickLane s.env.draws) s.env.poolFree = some (pool, lane))
    (pin : BitVec 8) : execInit pin s = .next (takeLane pool lane pin s) := by
  obtain ⟨hvalid, -⟩ | ⟨-, _, _, hsome, heq⟩ | ⟨-, hnone, -⟩ := execInit_cases pin s
  · simp [hv] at hvalid
  · cases hsome.symm.trans hclaim
    exact heq
  · simp [hclaim] at hnone

theorem execSet_of_index (hv : s.handle.valid = true) {idx : BitVec 5} (hidx : idx.toNat < 25) (r g b : Byte) :
    execSet idx r g b s = .next { s with fb := Memory.write s.fb idx.toNat ⟨r, g, b⟩ } := by
  obtain ⟨hinvalid, -⟩ | ⟨-, -, heq⟩ | ⟨-, hge, -⟩ := execSet_cases idx r g b s
  · simp [hv] at hinvalid
  · exact heq
  · omega

theorem execGet_of_element (hv : s.handle.valid = true) {idx : BitVec 5} (hidx : idx.toNat < 25) {p : Pixel}
    (hp : Memory.read s.fb idx.toNat = some p) : execGet idx s = .next (respond (packPixel p) s) := by
  obtain ⟨hinvalid, -⟩ | ⟨-, -, q, hq, heq⟩ | ⟨-, -, hnone, -⟩ | ⟨-, hge, -⟩ := execGet_cases idx s
  · simp [hv] at hinvalid
  · cases hq.symm.trans hp
    exact heq
  · simp [hp] at hnone
  · omega

theorem execClear_of_initialised (hv : s.handle.valid = true) :
    execClear s = .next (beginFlush { s with fb := Memory.zeroed }) := by
  obtain ⟨hinvalid, -⟩ | ⟨-, heq⟩ := execClear_cases s
  · simp [hv] at hinvalid
  · exact heq

theorem execWrite_of_initialised (hv : s.handle.valid = true) : execWrite s = .next (beginFlush s) := by
  obtain ⟨hinvalid, -⟩ | ⟨-, heq⟩ := execWrite_cases s
  · simp [hv] at hinvalid
  · exact heq

theorem execMap_of_position {row col : BitVec 8} (hrow : row.toNat < 5) (hcol : col.toNat < 5) :
    execMap row col s = .next (respond (BitVec.ofNat 24 (mapIndex row.toNat col.toNat)) s) := by
  obtain ⟨-, -, heq⟩ | ⟨hoff, -⟩ := execMap_cases row col s
  · exact heq
  · omega

end

/-! ## INIT -/

/-- Settles O11: the claim answers a free lane of the first pool that has one, and the rest is what `takeLane` writes.
-/
theorem initClaimsALane : Obligations.InitClaimsALane := by
  intro s pin hv hfree
  obtain ⟨lane, hclaim, hlane, hbit⟩ | ⟨lane, hclaim, hlane, hbit, hnone⟩ | ⟨-, hnone⟩ :=
    claimLane_cases (Config.pickLane s.env.draws) s.env.poolFree lanes_le_four
  · refine ⟨_, execInit_of_claim hv hclaim pin, rfl, rfl, hlane, ?_, Memory.read_zeroed, rfl, rfl, rfl, rfl, rfl⟩
    rw [if_pos ⟨_, hlane, hbit⟩]
    exact ⟨rfl, hbit⟩
  · refine ⟨_, execInit_of_claim hv hclaim pin, rfl, rfl, hlane, ?_, Memory.read_zeroed, rfl, rfl, rfl, rfl, rfl⟩
    rw [if_neg fun ⟨l, hl, hprimary⟩ => by simp [hnone l hl] at hprimary]
    exact ⟨rfl, hbit⟩
  · obtain ⟨l, hl, hbit⟩ := hfree
    simp [hnone l hl] at hbit

/-- Settles O31: INIT takes a lane or raises. -/
theorem initFrame : Obligations.InitFrame := by
  intro pin s t h
  cases commandEffect_of_exec h with
  | raised => exact ⟨rfl, fun _ => ⟨rfl, rfl, fun _ => rfl⟩⟩
  | laneTaken => exact ⟨rfl, fun hne => absurd rfl hne⟩

/-! ## SET and GET -/

/-- Settles O12: SET is one write of FB, and the laws of a read after a write say the rest. -/
theorem setWritesOneElement : Obligations.SetWritesOneElement := fun _ _ r g b hv hidx =>
  ⟨_, execSet_of_index hv hidx r g b, Memory.read_write_same _ _ _, fun j hj => Memory.read_write_other _ _ j _ hj, rfl⟩

/-- Settles O28: SET writes one element or raises. -/
theorem setFrame : Obligations.SetFrame := by
  intro idx r g b s t h
  cases commandEffect_of_exec h with
  | raised => exact ⟨fun _ _ => rfl, rfl⟩
  | elementSet => exact ⟨fun j hj => Memory.read_write_other _ _ j _ hj, rfl⟩

/-- RES holds an element as r, g, b from the top (10_state.md R16). -/
theorem packPixel_fields (p : Pixel) :
    (packPixel p).extractLsb' 16 8 = p.r ∧ (packPixel p).extractLsb' 8 8 = p.g ∧
      (packPixel p).extractLsb' 0 8 = p.b := by
  refine ⟨?_, ?_, BitVec.extractLsb'_append_eq_right⟩
  · exact (BitVec.extractLsb'_append_eq_of_le (by decide)).trans BitVec.extractLsb'_append_eq_left
  · exact (BitVec.extractLsb'_append_eq_of_le (by decide)).trans BitVec.extractLsb'_append_eq_right

/-- Settles O13: GET responds with the element packed, and its three fields are read back. -/
theorem getAnswersTheElement : Obligations.GetAnswersTheElement := by
  intro s idx p hv hidx hp
  obtain ⟨hr, hg, hb⟩ := packPixel_fields p
  exact ⟨_, execGet_of_element hv hidx hp, hr, hg, hb, rfl, rfl⟩

/-- Settles O19: the bound of an index is the number of elements, and a full buffer answers below it. -/
theorem indexOutOfRangeFaults : Obligations.IndexOutOfRangeFaults := by
  refine fun s idx r g b hv => ⟨fun hge => ?_, fun hlt hfull => ?_⟩
  · exact ⟨eq_next_of_raise (execSet_of_index_out_of_range hv hge r g b),
      eq_next_of_raise (execGet_of_index_out_of_range hv hge)⟩
  · obtain ⟨p, hp⟩ := Option.isSome_iff_exists.1 (hfull idx.toNat hlt)
    exact ⟨⟨_, execSet_of_index hv hlt r g b, rfl⟩, _, execGet_of_element hv hlt hp, rfl⟩

/-! ## MAP -/

/-- The table of 40_mapper.md R62, cell by cell. -/
theorem mapIndex_table :
    ∀ row < 5, ∀ col < 5,
      [24, 23, 22, 21, 20, 15, 16, 17, 18, 19, 14, 13, 12, 11, 10, 5, 6, 7, 8, 9, 4, 3, 2, 1, 0][row * 5 + col]? =
        some (mapIndex row col) := by
  decide

/-- Settles O16: MAP responds with `mapIndex`, which is the table cell by cell. -/
theorem mapAnswersTheTable : Obligations.MapAnswersTheTable := fun _ _ _ hrow hcol =>
  ⟨_, mapIndex_table _ hrow _ hcol, (execMap_of_position hrow hcol).trans (congrArg _ (respond_eq _ _))⟩

/-- Settles O20: MAP checks its position and nothing else. -/
theorem coordinateOutOfRangeFaults : Obligations.CoordinateOutOfRangeFaults := fun s _ _ h =>
  eq_next_of_raise (execMap_of_off_the_matrix h s)

/-- Settles O29: GET and MAP respond or raise. -/
theorem getAndMapFrame : Obligations.GetAndMapFrame := by
  rintro i s t (⟨idx, rfl⟩ | ⟨row, col, rfl⟩) h
  · cases commandEffect_of_exec h with
    | raised => exact ⟨fun _ => rfl, rfl, fun _ => ⟨rfl, rfl⟩⟩
    | elementRead => exact ⟨fun _ => rfl, rfl, fun hne => absurd rfl hne⟩
  · cases commandEffect_of_exec h with
    | raised => exact ⟨fun _ => rfl, rfl, fun _ => ⟨rfl, rfl⟩⟩
    | positionMapped => exact ⟨fun _ => rfl, rfl, fun hne => absurd rfl hne⟩

/-! ## CLEAR and WRITE -/

/-- Settles O14: CLEAR begins the flush of a zeroed buffer. -/
theorem clearZeroesAndFlushes : Obligations.ClearZeroesAndFlushes := fun _ hv =>
  ⟨_, execClear_of_initialised hv, Memory.read_zeroed, rfl⟩

/-- Settles O15: WRITE begins the flush and is that alone. -/
theorem writeBeginsAFlush : Obligations.WriteBeginsAFlush := fun s hv =>
  (execWrite_of_initialised hv).trans (congrArg _ (beginFlush_eq s))

/-- Settles O30: each begins a flush or raises, and CLEAR raises exactly where HANDLE is not valid. -/
theorem flushCommandsFrame : Obligations.FlushCommandsFrame := by
  refine ⟨fun s t h => ?_, fun s t h => ?_⟩
  · cases commandEffect_of_exec h with
    | raised | flushBegun => exact ⟨fun _ => rfl, rfl⟩
  · cases commandEffect_of_exec h with
    | raised => exact ⟨rfl, fun _ _ => rfl⟩
    | cleared hv => exact ⟨rfl, fun hinvalid => absurd (hv.symm.trans hinvalid) (by decide)⟩

/-- Settles O21: these four are the commands that ask for INIT before all else. -/
theorem usedBeforeInitFaults : Obligations.UsedBeforeInitFaults := by
  rintro s i hv (⟨idx, r, g, b, rfl⟩ | ⟨idx, rfl⟩ | rfl | rfl)
  all_goals exact eq_next_of_raise (exec_of_uninitialised hv rfl)

/-! ## BSTART -/

/-- Settles O17: BSTART looks at BLK.started alone. -/
theorem bstartStartsTheToggler : Obligations.BstartStartsTheToggler := by
  intro s
  obtain ⟨hb, heq⟩ | ⟨hb, heq⟩ := execBstart_cases s
  · rw [if_pos hb]
    exact heq
  · rw [if_neg (by simp [hb])]
    exact heq.trans (congrArg _ (driveStat_eq _ _))

/-- Settles O32: BSTART starts the toggler or finds it started. -/
theorem bstartFrame : Obligations.BstartFrame := by
  intro s t h
  obtain ⟨-, heq⟩ | ⟨-, heq⟩ := execBstart_cases s
  all_goals
    cases heq.symm.trans h
    exact ⟨fun _ => rfl, rfl⟩

end Sys2Proof.Commands

/-! SUPPORT. The autonomous steps, each where it is enabled and where it is not (42_transport.md R73 to R75), what a
raise leaves of them (60_exceptions.md R106), and the reset table (10_state.md R28). -/

namespace Sys2Proof.Steps

open Sys2Proof Sys2Proof.Machine

section
variable {s : State}

theorem submitByte_of_room {depth : Nat} (hs : s.cmdst = .flushing) (hroom : s.txq.length < depth) {p : Pixel}
    (hp : Memory.read s.fb s.scan.i.val = some p) :
    submitByte depth s = .next (advanceScan { s with txq := s.txq ++ [channelOf p s.scan.ch] }) := by
  obtain ⟨hoff, -⟩ | ⟨-, -, q, hq, heq⟩ | ⟨-, -, hnone, -⟩ := submitByte_cases depth s
  · exact absurd ⟨hs, hroom⟩ hoff
  · cases hq.symm.trans hp
    exact heq
  · simp [hp] at hnone

theorem emitByte_of_byte (hv : s.handle.valid = true) (hstall : s.env.stall = false) (hcnt : s.engCnt < 75) {b : Byte}
    {q : List Byte} (hq : s.txq = b :: q) :
    emitByte s = { s with txq := q, wire := s.wire ++ [.byte b], engCnt := s.engCnt + 1, dout := .low } := by
  obtain ⟨hoff, -⟩ | ⟨-, -, -, _, _, hcons, heq⟩ := emitByte_cases s
  · exact absurd ⟨hv, hstall, by simp [hq], hcnt⟩ hoff
  · cases hcons.symm.trans hq
    exact heq

theorem latchFrame_of_whole_frame (hstall : s.env.stall = false) (hcnt : s.engCnt = 75) :
    latchFrame s = { s with wire := s.wire ++ [.rst], engCnt := 0, dout := .low } := by
  obtain ⟨hoff, -⟩ | ⟨-, -, heq⟩ := latchFrame_cases s
  · exact absurd ⟨hstall, hcnt⟩ hoff
  · exact heq

theorem perform_of_not_of_enabled_iff {m : Move} {c : Prop} (hc : enabled m s = true ↔ c) (h : ¬ c) :
    perform m s = .next s :=
  perform_of_not_enabled (Bool.eq_false_iff.2 (mt hc.1 h))

end

/-- Settles O33: SUBMIT pushes the channel SCAN names, and SCAN moves one byte on or ends the flush. -/
theorem submitPushesOneByte : Obligations.SubmitPushesOneByte := by
  refine ⟨fun s p hs hroom hp => ⟨_, submitByte_of_room hs hroom hp, ?_⟩,
    fun s hoff => perform_of_not_of_enabled_iff (enabled_submit s) hoff,
    fun s hs => perform_of_not_of_enabled_iff (enabled_exec s) (by simp [hs])⟩
  obtain ⟨c, hc, hnot, heq⟩ | ⟨hblue, hi, heq⟩ :=
    advanceScan_cases { s with txq := s.txq ++ [channelOf p s.scan.ch] }
  · rw [heq, if_neg hnot]
    exact ⟨rfl, ⟨hs, hc⟩, rfl⟩
  · rw [heq, if_pos ⟨hblue, hi⟩]
    exact ⟨rfl, rfl, rfl⟩

theorem waveform_append_byte (o : BitOrder) (es : List WireEvent) (b : Byte) :
    waveform o (es ++ [.byte b]) = waveform o es ++ (byteBits o b).flatMap symbolOf := by
  simp [waveform, eventWave]

/-- Settles O34: EMIT takes the head of the queue, and a waveform is read off WIRE event by event. -/
theorem emitSendsTheHead : Obligations.EmitSendsTheHead :=
  ⟨fun s b _ hv hstall hq hcnt =>
      ⟨congrArg Host.Outcome.next (emitByte_of_byte hv hstall hcnt hq), fun o => waveform_append_byte o s.wire b⟩,
    fun s hoff => perform_of_not_of_enabled_iff (enabled_emit s) hoff⟩

/-- Settles O35: EMIT asks for fewer than the 75 bytes LATCH asks for. -/
theorem latchEndsTheFrame : Obligations.LatchEndsTheFrame :=
  ⟨fun s hstall hcnt =>
      ⟨congrArg Host.Outcome.next (latchFrame_of_whole_frame hstall hcnt),
        perform_of_not_of_enabled_iff (enabled_emit s) (by simp [hcnt])⟩,
    fun s hoff => perform_of_not_of_enabled_iff (enabled_latch s) hoff⟩

/-! ## After a raise -/

section
variable (e : LmdError) (w : Word) (s : State)

theorem emitByte_raise : emitByte (raise e w s) = raise e w (emitByte s) := by
  have hq : (raise e w s).txq = s.txq := rfl
  simp only [emitByte, hq, apply_ite (raise e w)]
  cases s.txq <;> rfl

theorem latchFrame_raise : latchFrame (raise e w s) = raise e w (latchFrame s) := by
  simp only [latchFrame, apply_ite (raise e w)]
  rfl

theorem toggleStat_raise : toggleStat (raise e w s) = raise e w (toggleStat s) := by
  simp only [toggleStat, apply_ite (raise e w)]
  rfl

end

/-- Settles O25: EXEC and SUBMIT are not enabled in Halted, and the other agents read neither FAULT nor CMDST. -/
theorem raiseHaltsOnlyTheExecutor : Obligations.RaiseHaltsOnlyTheExecutor := fun e w s =>
  ⟨raise_eq e w s, perform_of_not_enabled rfl, perform_of_not_enabled rfl,
    congrArg Host.Outcome.next (emitByte_raise e w s), congrArg Host.Outcome.next (latchFrame_raise e w s),
    congrArg Host.Outcome.next (toggleStat_raise e w s)⟩

/-! ## Reset -/

/-- Settles O37: both reset states are the reset table, read off field by field. -/
theorem resetLeavesTheTable : Obligations.ResetLeavesTheTable :=
  ⟨fun s => ⟨assertReset s, rfl, rfl, rfl, rfl, rfl, rfl, rfl, rfl, rfl, rfl, rfl, rfl⟩,
    rfl, rfl, rfl, rfl, rfl, rfl, rfl, rfl, rfl, rfl⟩

end Sys2Proof.Steps

/-! SUPPORT. The byte sequence of a frame (20_memory.md R35, 42_transport.md R72, R73): of a full buffer it is 75
bytes, and the byte SCAN names stands at the place SCAN counts to. -/

namespace Sys2Proof.Frame

open Sys2Proof Sys2Proof.Machine

/-! ## A full buffer -/

theorem full_write {m : Memory} (hm : Memory.full m) (i : Nat) (p : Pixel) : Memory.full (Memory.write m i p) := by
  intro j hj
  by_cases h : j = i
  · simp [h]
  · rw [Memory.read_write_other m i j p h]
    exact hm j hj

theorem full_zeroed : Memory.full Memory.zeroed := fun i hi => by simp [Memory.read_zeroed i hi]

theorem exists_read_of_full {m : Memory} (hm : Memory.full m) {i : Nat} (hi : i < 25) : ∃ p, Memory.read m i = some p :=
  Option.isSome_iff_exists.1 (hm i hi)

/-- The elements of a full buffer, as a function of the index. -/
def elementOf (m : Memory) (k : Nat) : Pixel := (Memory.read m k).getD black

theorem read_eq_elementOf {m : Memory} (hm : Memory.full m) {k : Nat} (hk : k < 25) :
    Memory.read m k = some (elementOf m k) := by
  obtain ⟨p, hp⟩ := exists_read_of_full hm hk
  simp [elementOf, hp]

/-! ## Blocks of three -/

section
variable {α : Type} {f : Nat → List α} {n : Nat}

theorem length_flatMap_range_of_three (hf : ∀ i < n, (f i).length = 3) : ((List.range n).flatMap f).length = 3 * n := by
  induction n with
  | zero => rfl
  | succ n ih =>
    have hlen := ih fun i hi => hf i (by omega)
    simp [List.range_succ, hlen, hf n (Nat.lt_succ_self n)]
    omega

theorem getElem?_flatMap_range_of_three (hf : ∀ i < n, (f i).length = 3) {i j : Nat} (hi : i < n) (hj : j < 3) :
    ((List.range n).flatMap f)[3 * i + j]? = (f i)[j]? := by
  induction n with
  | zero => omega
  | succ n ih =>
    have hf' : ∀ i < n, (f i).length = 3 := fun i hi => hf i (by omega)
    have hlen := length_flatMap_range_of_three hf'
    rw [List.range_succ, List.flatMap_append]
    rcases Nat.lt_succ_iff_lt_or_eq.1 hi with hlt | rfl
    · rw [List.getElem?_append_left (by omega), ih hf' hlt]
    · rw [List.getElem?_append_right (by omega), hlen, Nat.add_sub_cancel_left, List.flatMap_singleton]

end

/-! ## The frame of a full buffer -/

theorem phaseNumber_lt (c : Phase) : phaseNumber c < 3 := by cases c <;> decide

theorem frameOf_eq {m : Memory} (hm : Memory.full m) :
    frameOf m = (List.range 25).flatMap fun k => wireBytesOf (elementOf m k) := by
  refine List.flatMap_congr fun k hk => ?_
  rw [read_eq_elementOf hm (List.mem_range.1 hk)]
  rfl

theorem length_frameOf {m : Memory} (hm : Memory.full m) : (frameOf m).length = 75 := by
  rw [frameOf_eq hm]
  exact length_flatMap_range_of_three fun _ _ => rfl

theorem getElem?_frameOf {m : Memory} (hm : Memory.full m) {i : Nat} (hi : i < 25) {p : Pixel}
    (hp : Memory.read m i = some p) (c : Phase) : (frameOf m)[3 * i + phaseNumber c]? = some (channelOf p c) := by
  rw [frameOf_eq hm, getElem?_flatMap_range_of_three (fun _ _ => rfl) hi (phaseNumber_lt c), elementOf, hp]
  cases c <;> rfl

/-- SUBMIT sends the next byte of the frame. -/
theorem take_frameOf_succ {m : Memory} (hm : Memory.full m) {c : Scan} {p : Pixel}
    (hp : Memory.read m c.i.val = some p) :
    (frameOf m).take (3 * c.i.val + phaseNumber c.ch + 1) =
      (frameOf m).take (3 * c.i.val + phaseNumber c.ch) ++ [channelOf p c.ch] := by
  rw [List.take_add_one, getElem?_frameOf hm c.i.isLt hp, Option.toList_some]

end Sys2Proof.Frame

/-! SUPPORT. The invariant (10_state.md sections 3 to 7): it holds after every reset, every command keeps it at an
open port, every step of an agent and every act of the environment keeps it, and from a state that meets it no step
stops. -/

namespace Sys2Proof.Invariant

open Sys2Proof Sys2Proof.Machine Sys2Proof.Effects Sys2Proof.Frame

theorem inv_resetWith (u : Unspecified) (e : Env) : Inv (State.resetWith u e) where
  fbGood := ⟨Memory.wf_reset, by simp [State.resetWith]⟩
  sequencingGood := by simp [SequencingGood, State.resetWith]
  faultGood := by simp [FaultGood, State.resetWith]
  queueGood := by simp [QueueGood, State.resetWith]
  engineGood := by simp [EngineGood, State.resetWith, framedCount]
  pinGood := by simp [PinGood, State.resetWith]
  togglerGood := by simp [TogglerGood, State.resetWith, alternate]
  flushGood := by simp [FlushGood, State.resetWith, flushed, submitted, wireBytes]

/-- Settles O38: `State.reset` is the reset table at one choice of the unspecified fields. -/
theorem resetIsGood : Obligations.ResetIsGood := inv_resetWith Unspecified.zero Env.initial

/-! ## What commands do -/

section
variable {s : State}

/-- No part of the invariant speaks of RES, or of the model's own inputs. -/
theorem inv_setRes_setEnv (h : Inv s) (v : BitVec 24) (e : Env) : Inv { s with res := v, env := e } := { h with }

theorem inv_setEnv (h : Inv s) (e : Env) : Inv { s with env := e } := { h with }

theorem flushed_of_not_flushing (hs : s.cmdst ≠ .flushing) : flushed s = 0 := if_neg hs

/-- While no flush is in progress the submitted bytes are whole frames, whatever FB holds. -/
theorem flushGood_iff_of_flushed_eq_zero (h0 : flushed s = 0) : FlushGood s ↔ (submitted s).length % 75 = 0 := by
  simp [FlushGood, h0, Config.frameBytes]

theorem faultGood_of_raise (e : LmdError) (w : Word) : FaultGood (raise e w s) := by
  simp only [FaultGood, raise_eq]
  cases e <;> decide

theorem inv_raise (h : Inv s) (hs : s.cmdst = .idle) (e : LmdError) (w : Word) : Inv (raise e w s) :=
  { h with
    sequencingGood := by simp [SequencingGood, raise_eq]
    faultGood := faultGood_of_raise e w
    flushGood := by
      have hlen := (flushGood_iff_of_flushed_eq_zero (flushed_of_not_flushing (by simp [hs]))).1 h.flushGood
      exact (flushGood_iff_of_flushed_eq_zero (flushed_of_not_flushing (by simp [raise_eq]))).2 hlen }

theorem inv_setFb (h : Inv s) (hs : s.cmdst = .idle) {m : Memory} (hwf : Memory.wf m)
    (hfull : s.handle.valid = true → Memory.full m) : Inv { s with fb := m } :=
  { h with
    fbGood := ⟨hwf, hfull⟩
    flushGood := by
      have h0 := flushed_of_not_flushing (s := s) (by simp [hs])
      exact (flushGood_iff_of_flushed_eq_zero (s := { s with fb := m }) h0).2
        ((flushGood_iff_of_flushed_eq_zero h0).1 h.flushGood) }

theorem inv_takeLane (h : Inv s) (hs : s.cmdst = .idle) (pool : BitVec 1) (lane : BitVec 2) (pin : Byte) :
    Inv (takeLane pool lane pin s) :=
  { inv_setFb h hs Memory.wf_zeroed fun _ => full_zeroed with
    fbGood := ⟨Memory.wf_zeroed, fun _ => full_zeroed⟩
    sequencingGood := ⟨h.sequencingGood.1, fun _ => rfl⟩
    queueGood := ⟨h.queueGood.1, fun hv => by simp [takeLane_eq] at hv⟩
    pinGood := fun _ => rfl }

theorem inv_beginFlush (h : Inv s) (hs : s.cmdst = .idle) (hv : s.handle.valid = true) : Inv (beginFlush s) :=
  { h with
    sequencingGood := by
      have hvalid := h.sequencingGood.1
      simp only [hs, reduceCtorEq, false_iff] at hvalid
      exact ⟨by simpa [beginFlush_eq] using hvalid, fun _ => hv⟩
    flushGood := by
      have hlen := (flushGood_iff_of_flushed_eq_zero (flushed_of_not_flushing (by simp [hs]))).1 h.flushGood
      exact (flushGood_iff_of_flushed_eq_zero (s := beginFlush s) rfl).2 hlen }

/-- The toggler takes its next level: STATLOG goes on alternating, and STAT is its last level. -/
theorem togglerGood_driveStat (hb : s.blkStarted = true) (hlog : s.statlog = alternate .high s.statlog.length)
    {l : Level} (hl : l = if s.statlog.length % 2 = 0 then .high else .low) : TogglerGood (driveStat l s) := by
  have hnext : alternate .high (s.statlog.length + 1) = s.statlog ++ [l] := by
    rw [Toggler.alternate_succ, ← hlog, hl]
    rfl
  exact ⟨by simp [driveStat_eq, hnext], by simp [driveStat_eq, hb], fun _ => by simp [driveStat_eq]⟩

theorem inv_started (h : Inv s) (hb : s.blkStarted = false) : Inv (driveStat .high { s with blkStarted := true }) := by
  have hempty : s.statlog = [] := by simpa [hb] using h.togglerGood.2.1
  exact { h with
    togglerGood := togglerGood_driveStat (s := { s with blkStarted := true }) rfl h.togglerGood.1 (by simp [hempty]) }

theorem inv_toggled (h : Inv s) (hb : s.blkStarted = true) : Inv (driveStat (flipLevel s.blkLevel) s) := by
  refine { h with togglerGood := togglerGood_driveStat hb h.togglerGood.1 ?_ }
  rw [← (h.togglerGood.2.2 hb).1, Toggler.stat_eq_of_togglerGood h.togglerGood hb]
  rcases Nat.mod_two_eq_zero_or_one s.statlog.length with h | h <;> simp [h, flipLevel]

theorem inv_of_commandEffect {i : Instr} {t : State} (h : Inv s) (hs : s.cmdst = .idle)
    (heffect : CommandEffect s i t) : Inv t := by
  cases heffect with
  | raised _ e => exact inv_raise h hs e _
  | laneTaken pin pool lane => exact inv_takeLane h hs pool lane pin
  | elementSet idx r g b hv hidx =>
    exact inv_setFb h hs (Memory.wf_write _ hidx h.fbGood.1) fun hv => full_write (h.fbGood.2 hv) _ _
  | elementRead | positionMapped => exact inv_setRes_setEnv h _ _
  | cleared hv => exact inv_beginFlush (inv_setFb h hs Memory.wf_zeroed fun _ => full_zeroed) hs hv
  | flushBegun hv => exact inv_beginFlush h hs hv
  | startedAlready => exact h
  | started hb => exact inv_started h hb

/-! ## What the agents do -/

theorem handle_valid_of_flushing (h : Inv s) (hs : s.cmdst = .flushing) : s.handle.valid = true :=
  h.sequencingGood.2 hs

theorem full_of_flushing (h : Inv s) (hs : s.cmdst = .flushing) : Memory.full s.fb :=
  h.fbGood.2 (handle_valid_of_flushing h hs)

theorem flushed_of_flushing (hs : s.cmdst = .flushing) : flushed s = 3 * s.scan.i.val + phaseNumber s.scan.ch :=
  if_pos hs

theorem flushed_lt (s : State) : flushed s < 75 := by
  unfold flushed
  have hi := s.scan.i.isLt
  have hc := phaseNumber_lt s.scan.ch
  split <;> omega

/-- Before INIT the queue is empty, so a queue that has grown is that of an initialised LMD. -/
theorem queueGood_of_submit (h : Inv s) (hs : s.cmdst = .flushing) (hroom : s.txq.length < Config.txqDepth) (b : Byte)
    (c : Scan) (x : CmdState) : QueueGood { s with txq := s.txq ++ [b], scan := c, cmdst := x } :=
  ⟨by simpa using hroom, fun (hv : s.handle.valid = false) => by simp [handle_valid_of_flushing h hs] at hv⟩

theorem submitted_snoc (b : Byte) (c : Scan) (x : CmdState) :
    submitted { s with txq := s.txq ++ [b], scan := c, cmdst := x } = submitted s ++ [b] :=
  (List.append_assoc _ _ _).symm

/-- SCAN counts the bytes of the flush handed over. -/
theorem flushed_of_scan_advanced (hs : s.cmdst = .flushing) {c : Scan}
    (hc : 3 * c.i.val + phaseNumber c.ch = 3 * s.scan.i.val + phaseNumber s.scan.ch + 1) (q : List Byte) :
    flushed { s with txq := q, scan := c } = flushed s + 1 := by
  rw [flushed_of_flushing hs, flushed_of_flushing (s := { s with txq := q, scan := c }) hs, hc]

theorem inv_byteSubmitted (h : Inv s) (hs : s.cmdst = .flushing) (hroom : s.txq.length < Config.txqDepth) {p : Pixel}
    (hp : Memory.read s.fb s.scan.i.val = some p) {c : Scan}
    (hc : 3 * c.i.val + phaseNumber c.ch = 3 * s.scan.i.val + phaseNumber s.scan.ch + 1) :
    Inv { s with txq := s.txq ++ [channelOf p s.scan.ch], scan := c } :=
  { h with
    queueGood := queueGood_of_submit h hs hroom _ c s.cmdst
    flushGood := by
      obtain ⟨hmod, hlast⟩ := h.flushGood
      have hlt := flushed_lt { s with txq := s.txq ++ [channelOf p s.scan.ch], scan := c }
      have hnext := flushed_of_scan_advanced hs hc (s.txq ++ [channelOf p s.scan.ch])
      have hframe := take_frameOf_succ (full_of_flushing h hs) hp
      rw [← flushed_of_flushing hs] at hframe
      simp only [Config.frameBytes] at hmod
      simp only [FlushGood, hnext, submitted_snoc _ c s.cmdst, hframe, ← hlast, List.length_append,
        List.length_singleton, Nat.add_sub_add_right, Config.frameBytes]
      exact ⟨by omega, List.drop_append_of_le_length (Nat.sub_le _ _)⟩ }

theorem inv_lastByteSubmitted (h : Inv s) (hs : s.cmdst = .flushing) (hroom : s.txq.length < Config.txqDepth)
    (hlast : s.scan.ch = .blue ∧ s.scan.i.val = 24) (b : Byte) :
    Inv { s with txq := s.txq ++ [b], cmdst := .idle } :=
  { h with
    sequencingGood := by simpa [SequencingGood, hs] using h.sequencingGood.1
    queueGood := queueGood_of_submit h hs hroom b s.scan .idle
    flushGood := by
      have hmod := h.flushGood.1
      rw [flushed_of_flushing hs, hlast.1, hlast.2] at hmod
      refine (flushGood_iff_of_flushed_eq_zero (flushed_of_not_flushing (by simp))).2 ?_
      simp only [phaseNumber, Config.frameBytes] at hmod
      rw [submitted_snoc b s.scan .idle, List.length_append, List.length_singleton]
      omega }

theorem framedCount_append (n : Nat) (es fs : List WireEvent) :
    framedCount n (es ++ fs) = (framedCount n es).bind fun k => framedCount k fs := by
  induction es generalizing n with
  | nil => rfl
  | cons e es ih =>
    cases e <;> simp only [List.cons_append, framedCount] <;> split <;> simp [ih]

theorem flushGood_congr {t : State} (h : FlushGood s) (hsubmitted : submitted t = submitted s)
    (hflushed : flushed t = flushed s) (hfb : t.fb = s.fb) : FlushGood t := by
  rwa [FlushGood, hsubmitted, hflushed, hfb]

theorem inv_byteEmitted (h : Inv s) (hv : s.handle.valid = true) (hcnt : s.engCnt < 75) {b : Byte} {q : List Byte}
    (hq : s.txq = b :: q) :
    Inv { s with txq := q, wire := s.wire ++ [.byte b], engCnt := s.engCnt + 1, dout := .low } :=
  { h with
    queueGood := by
      have hlen := h.queueGood.1
      rw [hq, List.length_cons] at hlen
      exact ⟨Nat.le_of_succ_le hlen, fun hv' => absurd (hv'.symm.trans hv) (by decide)⟩
    engineGood := ⟨by simp [framedCount_append, h.engineGood.1, framedCount, Config.frameBytes, hcnt], hcnt⟩
    pinGood := fun _ => rfl
    flushGood := flushGood_congr h.flushGood (by simp [submitted, hq]) rfl rfl }

theorem inv_frameLatched (h : Inv s) (hcnt : s.engCnt = 75) :
    Inv { s with wire := s.wire ++ [.rst], engCnt := 0, dout := .low } :=
  { h with
    queueGood := by
      refine ⟨h.queueGood.1, fun hv => ?_⟩
      have h0 := (h.queueGood.2 hv).2.1
      omega
    engineGood := ⟨by simp [framedCount_append, h.engineGood.1, framedCount, Config.frameBytes, hcnt], Nat.zero_le _⟩
    pinGood := fun _ => rfl
    flushGood := flushGood_congr h.flushGood (by simp [submitted]) rfl rfl }

end

/-! ## Every move -/

theorem inv_of_perform {m : Move} {s t : State} (hs : Inv s) (h : perform m s = .next t) : Inv t := by
  cases moveEffect_of_perform h with
  | disabled => exact hs
  | illegalWord w ws hidle => exact inv_raise (s := acceptCommand ws s) (inv_setEnv hs _) hidle _ _
  | command ws i t hidle hport heffect =>
    exact inv_of_commandEffect (s := acceptCommand ws s) (inv_setEnv hs _) hidle heffect
  | byteSubmitted p c hflushing hroom hp hc => exact inv_byteSubmitted hs hflushing hroom hp hc
  | lastByteSubmitted p hflushing hroom hp hlast => exact inv_lastByteSubmitted hs hflushing hroom hlast _
  | byteEmitted b q hv hunstalled hcnt hq => exact inv_byteEmitted hs hv hcnt hq
  | frameLatched hunstalled hcnt => exact inv_frameLatched hs hcnt
  | toggled hb => exact inv_toggled hs hb
  | reset => exact inv_resetWith _ _
  | offered | stalled | poolFreeSet => exact inv_setEnv hs _

theorem inv_consumeMove {s : State} (h : Inv s) : Inv (consumeMove s) := by
  obtain ⟨ms, n, heq⟩ := consumeMove_eq s
  exact heq ▸ inv_setEnv h _

/-- Settles O39: a step is a move from a state that differs in the model's own inputs only. -/
theorem stepKeepsGood : Obligations.StepKeepsGood := fun _ _ hs h => inv_of_perform (inv_consumeMove hs) h

/-! ## No move stops -/

theorem exec_answers {s : State} (h : Inv s) (i : Instr) : ∃ t, exec i s = .next t := by
  cases i with
  | init pin =>
    obtain ⟨-, heq⟩ | ⟨-, _, _, -, heq⟩ | ⟨-, -, heq⟩ := execInit_cases pin s
    all_goals exact ⟨_, heq⟩
  | set idx r g b =>
    obtain ⟨-, heq⟩ | ⟨-, -, heq⟩ | ⟨-, -, heq⟩ := execSet_cases idx r g b s
    all_goals exact ⟨_, heq⟩
  | get idx =>
    obtain ⟨-, heq⟩ | ⟨-, -, _, -, heq⟩ | ⟨hv, hidx, hnone, -⟩ | ⟨-, -, heq⟩ := execGet_cases idx s
    case inr.inr.inl =>
      obtain ⟨p, hp⟩ := exists_read_of_full (h.fbGood.2 hv) hidx
      simp [hnone] at hp
    all_goals exact ⟨_, heq⟩
  | clear =>
    obtain ⟨-, heq⟩ | ⟨-, heq⟩ := execClear_cases s
    all_goals exact ⟨_, heq⟩
  | write =>
    obtain ⟨-, heq⟩ | ⟨-, heq⟩ := execWrite_cases s
    all_goals exact ⟨_, heq⟩
  | map row col =>
    obtain ⟨-, -, heq⟩ | ⟨-, heq⟩ := execMap_cases row col s
    all_goals exact ⟨_, heq⟩
  | bstart =>
    obtain ⟨-, heq⟩ | ⟨-, heq⟩ := execBstart_cases s
    all_goals exact ⟨_, heq⟩

theorem perform_answers {s : State} (h : Inv s) (m : Move) : ∃ t, perform m s = .next t := by
  cases m with
  | exec =>
    obtain ⟨-, heq, -⟩ | ⟨_, _, _, -, -, -, heq, -⟩ | ⟨_, ws, i, -, -, -, heq, -⟩ := execCommand_cases s
    · exact ⟨_, heq⟩
    · exact ⟨_, heq⟩
    · obtain ⟨t, ht⟩ := exec_answers (inv_setEnv h { s.env with cmds := ws, rsp := none }) i
      exact ⟨t, heq.trans ht⟩
  | submit =>
    obtain ⟨-, heq⟩ | ⟨-, -, _, -, heq⟩ | ⟨hflushing, -, hnone, -⟩ := submitByte_cases Config.txqDepth s
    · exact ⟨_, heq⟩
    · exact ⟨_, heq⟩
    · obtain ⟨p, hp⟩ := exists_read_of_full (full_of_flushing h hflushing) s.scan.i.isLt
      simp [hnone] at hp
  | _ => exact ⟨_, rfl⟩

/-- Settles O40: the stop needs an element without a value, and FB is full in every good state that reads it. -/
theorem goodStatesNeverStop : Obligations.GoodStatesNeverStop := fun s hs =>
  perform_answers (inv_consumeMove hs) (nextMove s)

end Sys2Proof.Invariant

/-! SUPPORT. The command port (10_state.md R17) and what no move can see: the moves that are placed (log 1), and for
agents A and E the toggler (10_state.md R25, 43_status_blinker.md R88). Both are one argument: rewriting what a
command or a step neither reads nor writes before it is the same as rewriting it after it. -/

namespace Sys2Proof.Port

open Sys2Proof Sys2Proof.Machine

/-! ## The port -/

section
variable {s : State}

theorem execCommand_of_not_idle (hs : s.cmdst ≠ .idle) : execCommand s = .next s := if_neg hs

theorem execCommand_of_no_word (hc : s.env.cmds = []) : execCommand s = .next s := by
  simp [execCommand, hc]

theorem execCommand_of_word {w : Word} {ws : List Word} (hs : s.cmdst = .idle) (hc : s.env.cmds = w :: ws) :
    execCommand s = executeWord w (acceptCommand ws s) := by
  rw [execCommand, if_pos hs, hc]

theorem executeWord_of_decode_ok {w : Word} {i : Instr} (hd : decode w = .ok i) : executeWord w s = exec i s := by
  rw [executeWord, hd]

/-- A placed move is the one the next step takes. -/
theorem step_of_moves {m : Move} {ms : List Move} (hm : s.env.moves = m :: ms) :
    step s = perform m (placeMoves ms s) := by
  simp [step, nextMove, consumeMove, hm, placeMoves]

end

/-- Settles O7: the step is the placed EXEC, which finds the port open and the word legal. -/
theorem stepRunsTheDecodedCommand : Obligations.StepRunsTheDecodedCommand := by
  intro s ms w ws i hm hs hc hd
  rw [step_of_moves hm, perform, execCommand_of_word (s := placeMoves ms s) hs hc, executeWord_of_decode_ok hd]
  rfl

/-- Settles O8: as O7, with the `raise` of an illegal word. -/
theorem stepFaultsOnAnIllegalWord : Obligations.StepFaultsOnAnIllegalWord := by
  intro s ms w ws e hm hs hc hd
  rw [step_of_moves hm, perform, execCommand_of_word (s := placeMoves ms s) hs hc,
    Exceptions.executeWord_of_decode_error hd]
  rfl

/-- Settles O9: the placed EXEC finds the port closed. -/
theorem closedPortTakesNothing : Obligations.ClosedPortTakesNothing := by
  intro s ms hm hs
  exact (step_of_moves hm).trans (execCommand_of_not_idle (s := placeMoves ms s) hs)

end Sys2Proof.Port

namespace Sys2Proof.Unseen

open Sys2Proof Sys2Proof.Machine Sys2Proof.Effects Sys2Proof.Port

/-! ## Rewriting the toggler and the placed moves -/

/-- `s` with what the toggler owns rewritten by `g` and the placed moves by `k`. -/
def disguise (g : Bool × Level × Level × List Level → Bool × Level × Level × List Level) (k : List Move → List Move)
    (s : State) : State :=
  { s with
    blkStarted := (g (togglerView s)).1, blkLevel := (g (togglerView s)).2.1, stat := (g (togglerView s)).2.2.1
    statlog := (g (togglerView s)).2.2.2, env := { s.env with moves := k s.env.moves } }

theorem hideToggler_eq_disguise : hideToggler = disguise (fun _ => (false, .low, .low, [])) id := rfl

theorem placeMoves_eq_disguise (ms : List Move) : placeMoves ms = disguise id (fun _ => ms) := rfl

theorem seenThrough_seenThrough {f : State → State} (hf : ∀ s, f (f s) = f s)
    (o : Host.Outcome State Fault Refusal) : seenThrough f (seenThrough f o) = seenThrough f o := by
  cases o with
  | next s => exact congrArg Host.Outcome.next (hf s)
  | _ => rfl

section
variable {g : Bool × Level × Level × List Level → Bool × Level × Level × List Level} {k : List Move → List Move}

@[simp] theorem fb_disguise (s : State) : (disguise g k s).fb = s.fb := rfl
@[simp] theorem txq_disguise (s : State) : (disguise g k s).txq = s.txq := rfl
@[simp] theorem scan_disguise (s : State) : (disguise g k s).scan = s.scan := rfl
@[simp] theorem env_disguise (s : State) : (disguise g k s).env = { s.env with moves := k s.env.moves } := rfl

/-- No command but BSTART reads or writes the toggler, and none reads or writes the placed moves. -/
theorem exec_disguise {i : Instr} (hi : i ≠ .bstart) (s : State) :
    exec i (disguise g k s) = seenThrough (disguise g k) (exec i s) := by
  cases i with
  | init pin =>
    simp only [exec, execInit, initWith, env_disguise, apply_ite (seenThrough (disguise g k))]
    cases claimLane Config.lanes (Config.pickLane s.env.draws) s.env.poolFree <;> rfl
  | get idx =>
    simp only [exec, execGet, fb_disguise, apply_ite (seenThrough (disguise g k))]
    cases Memory.read s.fb idx.toNat <;> rfl
  | set | clear | write | map =>
    simp only [exec, execSet, execClear, execWrite, execMap, apply_ite (seenThrough (disguise g k))]
    rfl
  | bstart => exact absurd rfl hi

theorem advanceScan_disguise (s : State) : advanceScan (disguise g k s) = disguise g k (advanceScan s) := by
  obtain ⟨_, _, _, _, _, ⟨i, c⟩, _, _, _, _, _, _, _, _, _⟩ := s
  cases c with
  | green | red => rfl
  | blue =>
    simp only [advanceScan, apply_dite (disguise g k)]
    rfl

theorem submitByte_disguise (depth : Nat) (s : State) :
    submitByte depth (disguise g k s) = seenThrough (disguise g k) (submitByte depth s) := by
  simp only [submitByte, fb_disguise, scan_disguise, apply_ite (seenThrough (disguise g k))]
  cases Memory.read s.fb s.scan.i.val with
  | none => rfl
  | some p =>
    have hadv := advanceScan_disguise (g := g) (k := k) (s.setTxq (s.txq ++ [channelOf p s.scan.ch]))
    simp only [seenThrough, ← hadv]
    rfl

theorem emitByte_disguise (s : State) : emitByte (disguise g k s) = disguise g k (emitByte s) := by
  simp only [emitByte, txq_disguise, apply_ite (disguise g k)]
  cases s.txq <;> rfl

theorem latchFrame_disguise (s : State) : latchFrame (disguise g k s) = disguise g k (latchFrame s) := by
  simp only [latchFrame, apply_ite (disguise g k)]
  rfl

/-- What is hidden from the three writers of the toggler when it is hidden again after them. -/
structure Hides (f : State → State) : Prop where
  again : ∀ s, f (f s) = f s
  bstart : ∀ s, seenThrough f (exec .bstart (f s)) = seenThrough f (exec .bstart s)
  toggle : ∀ s, f (toggleStat (f s)) = f (toggleStat s)
  reset : ∀ s, f (assertReset (f s)) = f (assertReset s)

variable (hf : Hides (disguise g k))
include hf

theorem seenThrough_exec_disguise (i : Instr) (s : State) :
    seenThrough (disguise g k) (exec i (disguise g k s)) = seenThrough (disguise g k) (exec i s) := by
  by_cases hi : i = .bstart
  · exact hi ▸ hf.bstart s
  · rw [exec_disguise hi, seenThrough_seenThrough hf.again]

theorem seenThrough_execCommand_disguise (s : State) :
    seenThrough (disguise g k) (execCommand (disguise g k s)) = seenThrough (disguise g k) (execCommand s) := by
  have hstay : seenThrough (disguise g k) (.next (disguise g k s)) = seenThrough (disguise g k) (.next s) :=
    congrArg Host.Outcome.next (hf.again s)
  by_cases hs : s.cmdst = .idle
  · cases hc : s.env.cmds with
    | nil => rwa [execCommand_of_no_word hc, execCommand_of_no_word (s := disguise g k s) hc]
    | cons w ws =>
      rw [execCommand_of_word hs hc, execCommand_of_word (s := disguise g k s) hs hc]
      cases hd : decode w with
      | ok i =>
        rw [executeWord_of_decode_ok hd, executeWord_of_decode_ok hd]
        exact seenThrough_exec_disguise hf i (acceptCommand ws s)
      | error e =>
        rw [Exceptions.executeWord_of_decode_error hd, Exceptions.executeWord_of_decode_error hd]
        exact congrArg Host.Outcome.next (hf.again (raise .illegalCommand w (acceptCommand ws s)))
  · rwa [execCommand_of_not_idle hs, execCommand_of_not_idle (s := disguise g k s) hs]

/-- What a move does, but for what is hidden, does not rest on what is hidden. -/
theorem seenThrough_perform_disguise (m : Move) (s : State) :
    seenThrough (disguise g k) (perform m (disguise g k s)) = seenThrough (disguise g k) (perform m s) := by
  cases m with
  | exec => exact seenThrough_execCommand_disguise hf s
  | submit =>
    simp only [perform]
    rw [submitByte_disguise, seenThrough_seenThrough hf.again]
  | emit => exact congrArg Host.Outcome.next ((congrArg (disguise g k) (emitByte_disguise s)).trans (hf.again _))
  | latch => exact congrArg Host.Outcome.next ((congrArg (disguise g k) (latchFrame_disguise s)).trans (hf.again _))
  | toggle => exact congrArg Host.Outcome.next (hf.toggle s)
  | rst => exact congrArg Host.Outcome.next (hf.reset s)
  | offer w => exact congrArg Host.Outcome.next (hf.again (offerWord w s))
  | stall => exact congrArg Host.Outcome.next (hf.again (beginStall s))
  | setPoolFree p => exact congrArg Host.Outcome.next (hf.again (supplyPoolFree p s))

end

/-! ## The toggler is hidden from A and E -/

theorem hideToggler_toggleStat (s : State) : hideToggler (toggleStat s) = hideToggler s := by
  obtain ⟨-, heq⟩ | ⟨-, heq⟩ := toggleStat_cases s
  all_goals exact (congrArg hideToggler heq).trans rfl

theorem seenThrough_hideToggler_bstart (s : State) :
    seenThrough hideToggler (exec .bstart s) = .next (hideToggler s) := by
  obtain ⟨-, heq⟩ | ⟨-, heq⟩ := execBstart_cases s
  all_goals exact (congrArg (seenThrough hideToggler) heq).trans rfl

theorem hides_hideToggler : Hides hideToggler where
  again _ := rfl
  bstart s := by rw [seenThrough_hideToggler_bstart, seenThrough_hideToggler_bstart]; rfl
  toggle s := by rw [hideToggler_toggleStat, hideToggler_toggleStat]; rfl
  reset _ := rfl

/-- Settles O45: of two states that look alike through `hideToggler`, each does what the hidden one does. -/
theorem transportCannotSeeTheToggler : Obligations.TransportCannotSeeTheToggler := by
  intro m s s' h
  have hhidden (u) : seenThrough hideToggler (perform m (hideToggler u)) = seenThrough hideToggler (perform m u) := by
    have hhides := hides_hideToggler
    rw [hideToggler_eq_disguise] at hhides ⊢
    exact seenThrough_perform_disguise hhides m u
  rw [← hhidden s, h, hhidden s']

/-! ## The placed moves are hidden from all -/

theorem hides_placeMoves (ms : List Move) : Hides (placeMoves ms) where
  again _ := rfl
  bstart s := by
    have hcomm : exec .bstart (placeMoves ms s) = seenThrough (placeMoves ms) (exec .bstart s) := by
      simp only [exec, execBstart, apply_ite (seenThrough (placeMoves ms))]
      rfl
    rw [hcomm, seenThrough_seenThrough (f := placeMoves ms) fun _ => rfl]
  toggle s := by
    have hcomm : toggleStat (placeMoves ms s) = placeMoves ms (toggleStat s) := by
      simp only [toggleStat, apply_ite (placeMoves ms)]
      rfl
    rw [hcomm]
    rfl
  reset _ := rfl

theorem moves_of_perform {m : Move} {s t : State} (h : perform m s = .next t) : t.env.moves = s.env.moves := by
  cases moveEffect_of_perform h with
  | command ws i t hidle hport heffect => cases heffect <;> rfl
  | _ => rfl

theorem perform_placeMoves (m : Move) (ms : List Move) (s : State) :
    perform m (placeMoves ms s) = seenThrough (placeMoves ms) (perform m s) := by
  have hkept : seenThrough (placeMoves ms) (perform m (placeMoves ms s)) = perform m (placeMoves ms s) := by
    cases h : perform m (placeMoves ms s) with
    | next t =>
      have hmoves : t.env.moves = ms := moves_of_perform h
      subst hmoves
      rfl
    | _ => rfl
  have hhides := hides_placeMoves ms
  rw [← hkept]
  rw [placeMoves_eq_disguise] at hhides ⊢
  exact seenThrough_perform_disguise hhides m s

theorem step_placeMoves_cons (m : Move) (ms : List Move) (s : State) :
    step (placeMoves (m :: ms) s) = perform m (placeMoves ms s) := rfl

/-- Settles O10, by induction on the placed moves: taking one off leaves the others placed, which the move cannot see.
-/
theorem placedMovesRunInOrder : Obligations.PlacedMovesRunInOrder := by
  intro ms
  induction ms with
  | nil => exact fun _ => rfl
  | cons m ms ih =>
    intro s
    have hrun : Sys2Proof.core.step (placeMoves (m :: ms) s) = seenThrough (placeMoves ms) (perform m s) :=
      (step_placeMoves_cons m ms s).trans (perform_placeMoves m ms s)
    simp only [List.length_cons, Host.Core.run, hrun, performAll, perform_placeMoves]
    cases perform m s with
    | next t => exact ih t
    | _ => rfl

end Sys2Proof.Unseen

/-! SUPPORT. Runs along lists of moves, and states from which only the toggler and the environment move: a stuck flush
and the end of a run (42_transport.md R77; 70_reset_and_hazards.md R134; 20_memory.md R42). -/

namespace Sys2Proof.Runs

open Sys2Proof Sys2Proof.Machine Sys2Proof.Effects Sys2Proof.Invariant

/-- Where every allowed move answers and keeps `P`, so does every list of allowed moves. -/
theorem performAll_answers {P : State → Prop} {allowed : Move → Prop}
    (hstep : ∀ {m s}, allowed m → P s → ∃ t, perform m s = .next t ∧ P t) {ms : List Move} {s : State}
    (hms : ∀ m ∈ ms, allowed m) (hs : P s) : ∃ t, performAll ms s = .next t ∧ P t := by
  induction ms generalizing s with
  | nil => exact ⟨s, rfl, hs⟩
  | cons m ms ih =>
    obtain ⟨hm, hms⟩ := List.forall_mem_cons.1 hms
    obtain ⟨u, hu, hPu⟩ := hstep hm hs
    obtain ⟨t, ht, hPt⟩ := ih hms hPu
    exact ⟨t, by rw [performAll, hu]; exact ht, hPt⟩

/-! ## Quiescent states -/

/-- Where no step of A or E is enabled, a move but a reset changes the toggler and the inputs only; a stall stays, and
only an `offer` changes the command stream. -/
theorem perform_of_quiescent {m : Move} {s : State} (hs : Quiescent s) (hm : m ≠ .rst) :
    ∃ l st log e, perform m s = .next { s with blkLevel := l, stat := st, statlog := log, env := e } ∧
      (s.env.stall = true → e.stall = true) ∧ ((∀ w, m ≠ .offer w) → e.cmds = s.env.cmds) := by
  cases m with
  | exec | submit | emit | latch =>
    exact ⟨_, _, _, _, perform_of_not_enabled (hs _ (by simp)), id, fun _ => rfl⟩
  | toggle =>
    obtain ⟨hb, -⟩ | ⟨-, heq⟩ := toggleStat_cases s
    · exact ⟨_, _, _, _, perform_of_not_enabled hb, id, fun _ => rfl⟩
    · exact ⟨_, _, _, _, congrArg Host.Outcome.next (heq.trans (driveStat_eq _ s)), id, fun _ => rfl⟩
  | offer w => exact ⟨_, _, _, _, rfl, id, fun h => absurd rfl (h w)⟩
  | rst => exact absurd rfl hm
  | stall => exact ⟨_, _, _, _, rfl, fun _ => rfl, fun _ => rfl⟩
  | setPoolFree p => exact ⟨_, _, _, _, rfl, id, fun _ => rfl⟩

/-! ## A stuck flush (42_transport.md R77) -/

/-- `t` is a stuck state that differs from `s` in the toggler and the inputs only. -/
structure StuckAs (s t : State) : Prop where
  stuck : RunStuck t
  fault : t.fault = s.fault
  txq : t.txq = s.txq
  wire : t.wire = s.wire
  engCnt : t.engCnt = s.engCnt
  scan : t.scan = s.scan
  fb : t.fb = s.fb

theorem perform_keeps_stuckAs {s : State} {m : Move} {t : State} (hm : m ≠ .rst) (ht : StuckAs s t) :
    ∃ u, perform m t = .next u ∧ StuckAs s u := by
  obtain ⟨_, _, _, e, heq, hstall, -⟩ := perform_of_quiescent (quiescent_of_runStuck ht.stuck) hm
  obtain ⟨hflushing, hstalled, hfull⟩ := ht.stuck
  exact ⟨_, heq, { ht with stuck := ⟨hflushing, hstall hstalled, hfull⟩ }⟩

theorem toggle_flips_stat {s : State} (hb : s.blkStarted = true) :
    ∃ u, perform .toggle s = .next u ∧ u.stat ≠ s.blkLevel := by
  obtain ⟨hnot, -⟩ | ⟨-, heq⟩ := toggleStat_cases s
  · simp [hb] at hnot
  · exact ⟨_, congrArg Host.Outcome.next heq, flipLevel_ne _⟩

/-- Settles O47: a stuck flush is quiescent, so along any moves without a reset only the toggler and the inputs
change. -/
theorem stuckStaysStuck : Obligations.StuckStaysStuck := by
  intro ms s hs hms
  obtain ⟨t, hrun, ht⟩ :=
    performAll_answers (P := StuckAs s) perform_keeps_stuckAs hms ⟨hs, rfl, rfl, rfl, rfl, rfl, rfl⟩
  exact ⟨t, hrun, ht.stuck, ht.fault, ht.txq, ht.wire, ht.engCnt, ht.scan, ht.fb, toggle_flips_stat⟩

/-! ## Whole frames (20_memory.md R42) -/

/-- Bytes counted by frames: those before the count, and those on the wire, are the frames latched and those since. -/
theorem length_wireBytes_of_framedCount {es : List WireEvent} {n k : Nat} (h : framedCount n es = some k) :
    n + (wireBytes es).length = 75 * latchCount es + k := by
  induction es generalizing n with
  | nil => simpa [framedCount, wireBytes, latchCount] using h
  | cons e es ih =>
    cases e with
    | byte b =>
      simp only [framedCount, Option.ite_none_right_eq_some] at h
      have hrest := ih h.2
      simp only [wireBytes, latchCount, List.length_cons]
      omega
    | rst =>
      simp only [framedCount, Option.ite_none_right_eq_some] at h
      obtain ⟨hn, h⟩ := h
      have hrest := ih h
      simp only [wireBytes, latchCount, hn, Config.frameBytes]
      omega

theorem engIdle_iff (s : State) : engIdle s = true ↔ s.txq = [] ∧ s.engCnt = 0 := by
  simp [engIdle]

theorem wholeFrames_of_engIdle {s : State} (hs : Inv s) (hidle : engIdle s = true) :
    submitted s = wireBytes s.wire ∧ (wireBytes s.wire).length = 75 * latchCount s.wire := by
  obtain ⟨hq, hcnt⟩ := (engIdle_iff s).1 hidle
  have hcount := length_wireBytes_of_framedCount hs.engineGood.1
  exact ⟨by simp [submitted, hq], by omega⟩

/-- Unstalled, the engine of a faulted run has sent all that waited, and that was whole frames. -/
theorem engIdle_of_runFaulted {s : State} (hs : Inv s) (hf : RunFaulted s) (hstall : s.env.stall = false) :
    engIdle s = true := by
  obtain ⟨hhalted, -, hquiet⟩ := hf
  have hemit := mt (enabled_emit s).2 (by simp [hquiet .emit (by simp)])
  have hlatch := mt (enabled_latch s).2 (by simp [hquiet .latch (by simp)])
  have hle : s.engCnt ≤ 75 := hs.engineGood.2
  have hne : s.engCnt ≠ 75 := fun h => hlatch ⟨hstall, h⟩
  have hq : s.txq = [] := by
    by_contra hq
    cases hv : s.handle.valid with
    | false => exact hq (hs.queueGood.2 hv).1
    | true => exact hemit ⟨hv, hstall, hq, by omega⟩
  have hcount := length_wireBytes_of_framedCount hs.engineGood.1
  have hmod := (flushGood_iff_of_flushed_eq_zero (flushed_of_not_flushing (by simp [hhalted]))).1 hs.flushGood
  rw [submitted, hq, List.append_nil] at hmod
  exact (engIdle_iff s).2 ⟨hq, by omega⟩

/-! ## What is observed of a run (70_reset_and_hazards.md R134) -/

theorem observe_of_runOver {s : State} (hs : Inv s) (h : RunOver s) :
    observe s = some (.over s.fb s.res s.handle s.wire (if s.blkStarted then some true else none)) := by
  rw [observe, if_pos h, decide_eq_true hs.togglerGood.1]

theorem observe_of_runFaulted {s : State} (h : RunFaulted s) : observe s = some (.faulted s.fault s.fb s.wire) := by
  rw [observe, if_neg fun hover : RunOver s => absurd (hover.2.1.symm.trans h.1) (by decide), if_pos h]

theorem runOver_or_runFaulted_of_observe {s : State} {o : Observation} (h : observe s = some o) :
    RunOver s ∨ RunFaulted s := by
  by_contra hnot
  obtain ⟨hover, hfaulted⟩ := not_or.1 hnot
  rw [observe, if_neg hover, if_neg hfaulted] at h
  cases h

theorem quiescent_of_runOver {s : State} (h : RunOver s) : Quiescent s := by
  obtain ⟨hcmds, hidle, -, hq, hcnt⟩ := h
  simp [Quiescent, enabled, hcmds, hidle, hq, hcnt, Config.frameBytes]

/-- A stalled engine has no step, and no other input disables or enables a step of A or E but the command stream. -/
theorem quiescent_of_inputs {s : State} (hs : Quiescent s) (l st : Level) (log : List Level) {e : Env}
    (hstall : s.env.stall = true → e.stall = true) (hcmds : e.cmds = s.env.cmds) :
    Quiescent { s with blkLevel := l, stat := st, statlog := log, env := e } := by
  simp only [Quiescent, List.forall_mem_cons, ← Bool.not_eq_true, enabled_exec, enabled_submit, enabled_emit,
    enabled_latch] at hs ⊢
  obtain ⟨hexec, hsubmit, hemit, hlatch, -⟩ := hs
  exact ⟨by rwa [hcmds], hsubmit, fun h => hemit ⟨h.1, mt hstall h.2.1, h.2.2⟩, fun h => hlatch ⟨mt hstall h.1, h.2⟩,
    by simp⟩

theorem observe_unchanged {m : Move} {s t : State} {o : Observation} (hs : Inv s) (ho : observe s = some o)
    (hrst : m ≠ .rst) (hoffer : ∀ w, m ≠ .offer w) (h : perform m s = .next t) : observe t = some o := by
  have ht := inv_of_perform hs h
  have hquiet := (runOver_or_runFaulted_of_observe ho).elim quiescent_of_runOver fun hf => hf.2.2
  obtain ⟨l, st, log, e, heq, hstall, hcmds⟩ := perform_of_quiescent hquiet hrst
  cases heq.symm.trans h
  rcases runOver_or_runFaulted_of_observe ho with hover | hfaulted
  · rw [observe_of_runOver hs hover] at ho
    exact .trans (observe_of_runOver ht ⟨(hcmds hoffer).trans hover.1, hover.2⟩) ho
  · rw [observe_of_runFaulted hfaulted] at ho
    have hquiet' := quiescent_of_inputs hquiet l st log hstall (hcmds hoffer)
    exact .trans (observe_of_runFaulted ⟨hfaulted.1, hfaulted.2.1, hquiet'⟩) ho

/-- Settles O50: an idle engine has counted no byte since its last RST; an ended run is quiescent, and what is
observed of it is none of the toggler's levels and none of the inputs. -/
theorem idleEngineMeansWholeFrames : Obligations.IdleEngineMeansWholeFrames :=
  ⟨fun _ => wholeFrames_of_engIdle, fun _ => engIdle_of_runFaulted, fun _ _ _ _ => observe_unchanged⟩

end Sys2Proof.Runs

/-! SUPPORT. What a flush puts on the wire (42_transport.md R72, R73, R78). The invariant of a flush that found the
engine idle: the bytes sent since and those that wait are the first bytes of the frame, as many as SCAN has passed,
and RST follows them once all 75 have gone. -/

namespace Sys2Proof.Flush

open Sys2Proof Sys2Proof.Machine Sys2Proof.Effects Sys2Proof.Frame

/-- How many bytes of its one flush agent A has handed over: those SCAN has passed, or all. -/
def handedOver (s : State) : Nat :=
  if s.cmdst = .flushing then 3 * s.scan.i.val + phaseNumber s.scan.ch else 75

/-- `sent` is on the wire after `w`, and RST too if that was the whole frame and it has been latched. -/
def SentAfter (w : List WireEvent) (sent : List Byte) (s : State) : Prop :=
  (s.wire = w ++ sent.map .byte ∧ s.engCnt = sent.length) ∨
    (s.wire = w ++ sent.map .byte ++ [.rst] ∧ s.engCnt = 0 ∧ sent.length = 75)

/-- A flush of `m` that began with WIRE at `w`, in progress or complete. -/
structure Delivering (w : List WireEvent) (m : Memory) (s : State) : Prop where
  fb : s.fb = m
  frame : ∃ sent, sent ++ s.txq = (frameOf m).take (handedOver s) ∧ SentAfter w sent s

theorem handedOver_of_flushing {s : State} (hs : s.cmdst = .flushing) :
    handedOver s = 3 * s.scan.i.val + phaseNumber s.scan.ch := if_pos hs

theorem handedOver_of_idle {s : State} (hs : s.cmdst = .idle) : handedOver s = 75 := if_neg (by simp [hs])

section
variable {w : List WireEvent} {m : Memory} {s : State}

theorem delivering_submitted (h : Delivering w m s) (hm : Memory.full m) (hs : s.cmdst = .flushing) {p : Pixel}
    (hp : Memory.read s.fb s.scan.i.val = some p) {c : Scan} {x : CmdState}
    (hnext : handedOver { s with txq := s.txq ++ [channelOf p s.scan.ch], scan := c, cmdst := x } = handedOver s + 1) :
    Delivering w m { s with txq := s.txq ++ [channelOf p s.scan.ch], scan := c, cmdst := x } := by
  obtain ⟨hfb, sent, hsent, hwire⟩ := h
  refine ⟨hfb, sent, ?_, hwire⟩
  have htake := take_frameOf_succ hm (hfb ▸ hp)
  rw [← handedOver_of_flushing hs] at htake
  rw [hnext, htake, ← hsent, List.append_assoc]

theorem delivering_emitted (h : Delivering w m s) (hm : Memory.full m) {b : Byte} {q : List Byte}
    (hq : s.txq = b :: q) :
    Delivering w m { s with txq := q, wire := s.wire ++ [.byte b], engCnt := s.engCnt + 1, dout := .low } := by
  obtain ⟨hfb, sent, hsent, ⟨hwire, hcnt⟩ | ⟨-, -, hlen⟩⟩ := h
  · refine ⟨hfb, sent ++ [b], ?_, .inl ⟨by simp [hwire], by simp [hcnt]⟩⟩
    rw [hq] at hsent
    exact (List.append_assoc sent [b] q).trans hsent
  · have hlong := congrArg List.length hsent
    simp only [hq, List.length_append, List.length_cons, List.length_take, length_frameOf hm] at hlong
    omega

theorem delivering_latched (h : Delivering w m s) (hcnt : s.engCnt = 75) :
    Delivering w m { s with wire := s.wire ++ [.rst], engCnt := 0, dout := .low } := by
  obtain ⟨hfb, sent, hsent, ⟨hwire, hlen⟩ | ⟨-, hzero, -⟩⟩ := h
  · exact ⟨hfb, sent, hsent, .inr ⟨by simp [hwire], rfl, by omega⟩⟩
  · omega

/-- Every move but EXEC and a reset keeps the flush's invariant. -/
theorem delivering_of_moveEffect {mv : Move} {t : State} (hm : Memory.full m) (h : Delivering w m s)
    (heffect : MoveEffect s mv t) (hmv : mv ≠ .exec ∧ mv ≠ .rst) : Delivering w m t := by
  cases heffect with
  | disabled => exact h
  | illegalWord | command => exact absurd rfl hmv.1
  | reset => exact absurd rfl hmv.2
  | byteSubmitted p c hflushing hroom hp hc =>
    refine delivering_submitted (x := s.cmdst) h hm hflushing hp ?_
    rw [handedOver_of_flushing hflushing, ← hc]
    exact handedOver_of_flushing hflushing
  | lastByteSubmitted p hflushing hroom hp hlast =>
    refine delivering_submitted (c := s.scan) h hm hflushing hp ?_
    rw [handedOver_of_flushing hflushing, handedOver_of_idle rfl, hlast.1, hlast.2]
    rfl
  | byteEmitted b q hv hunstalled hcnt hq => exact delivering_emitted h hm hq
  | frameLatched hunstalled hcnt => exact delivering_latched h hcnt
  | toggled | offered | stalled | poolFreeSet => exact { h with }

theorem delivering_of_performAll {ms : List Move} {t : State} (hm : Memory.full m) (hs : Delivering w m s)
    (hms : ∀ mv ∈ ms, mv ≠ .exec ∧ mv ≠ .rst) (h : performAll ms s = .next t) : Delivering w m t := by
  induction ms generalizing s with
  | nil =>
    cases h
    exact hs
  | cons mv ms ih =>
    obtain ⟨hmv, hms⟩ := List.forall_mem_cons.1 hms
    cases hp : perform mv s with
    | next u =>
      simp only [performAll, hp] at h
      exact ih (delivering_of_moveEffect hm hs (moveEffect_of_perform hp) hmv) hms h
    | fault e => simp [performAll, hp] at h
    | refused e => simp [performAll, hp] at h

/-- With A and the engine idle again the whole frame has gone, and its RST. -/
theorem wire_of_delivering (h : Delivering w m s) (hm : Memory.full m) (hs : s.cmdst = .idle)
    (hidle : engIdle s = true) : s.wire = w ++ (frameOf m).map .byte ++ [.rst] := by
  obtain ⟨-, sent, hsent, hwire⟩ := h
  obtain ⟨hq, hcnt⟩ := (Runs.engIdle_iff s).1 hidle
  have hlen := length_frameOf hm
  rw [hq, List.append_nil, handedOver_of_idle hs, List.take_of_length_le hlen.le] at hsent
  subst hsent
  obtain ⟨-, hsame⟩ | ⟨hwire, -⟩ := hwire
  · omega
  · exact hwire

/-- A flush that begins with the engine idle has sent nothing. -/
theorem delivering_beginFlush (hq : s.txq = []) (hcnt : s.engCnt = 0) : Delivering s.wire s.fb (beginFlush s) :=
  ⟨rfl, [], by simp [beginFlush_eq, handedOver, phaseNumber, hq], .inl ⟨by simp [beginFlush_eq], hcnt⟩⟩

/-- WRITE and CLEAR on an initialised LMD begin a flush of what FB then holds. -/
theorem exists_beginFlush_of_exec {i : Instr} {u : State} (hi : i = .write ∨ i = .clear) (hv : s.handle.valid = true)
    (hfull : Memory.full s.fb) (h : exec i s = .next u) :
    ∃ f, u = beginFlush { s with fb := f } ∧ Memory.full f := by
  rcases hi with rfl | rfl
  · cases (Commands.execWrite_of_initialised hv).symm.trans h
    exact ⟨s.fb, rfl, hfull⟩
  · cases (Commands.execClear_of_initialised hv).symm.trans h
    exact ⟨_, rfl, full_zeroed⟩

end

theorem map_byte_frameOf {m : Memory} (hm : Memory.full m) :
    (frameOf m).map WireEvent.byte =
      (List.range 25).flatMap fun k =>
        [.byte (elementOf m k).g, .byte (elementOf m k).r, .byte (elementOf m k).b] := by
  rw [frameOf_eq hm, List.map_flatMap]
  rfl

/-- Settles O52: the flush's invariant holds when it begins, whatever moves follow keep it, and with all idle again it
leaves one frame and its RST as the only thing WIRE can have gained. -/
theorem flushDeliversTheFrame : Obligations.FlushDeliversTheFrame := by
  intro i s u t ms hi hv hfull hq hcnt hexec hms hrun hidle heng
  obtain ⟨f, rfl, hf⟩ := exists_beginFlush_of_exec hi hv hfull hexec
  have ht : Delivering s.wire f t :=
    delivering_of_performAll hf (delivering_beginFlush (s := { s with fb := f }) hq hcnt) hms hrun
  refine ⟨ht.fb, elementOf f, fun k hk => read_eq_elementOf hf hk, ?_⟩
  rw [wire_of_delivering ht hf hidle heng, map_byte_frameOf hf]

end Sys2Proof.Flush

/-! SUPPORT. A flush in progress completes (70_reset_and_hazards.md R133). Unstalled it always has an enabled step of
A or E, and every such step taken leaves less work, which no other move adds to; so it completes in 75 rounds of
service and along every weakly fair schedule. -/

namespace Sys2Proof.Progress

open Sys2Proof Sys2Proof.Machine Sys2Proof.Effects Sys2Proof.Invariant Sys2Proof.Runs

/-- A flush in progress in a good unstalled state, with `f` in FAULT. -/
structure Pending (f : FaultRecord) (s : State) : Prop where
  inv : Inv s
  flushing : s.cmdst = .flushing
  unstalled : s.env.stall = false
  fault : s.fault = f

/-- The flush has ended, with `f` in FAULT. -/
def Ended (f : FaultRecord) (s : State) : Prop := s.cmdst = .idle ∧ s.fault = f

/-! ## The work left -/

/-- The steps by which a flush goes on. -/
def flushSteps : List Move := [.submit, .emit, .latch]

/-- Each byte still to be submitted will be queued, emitted and perhaps followed by a LATCH, and so counts for more
than the byte it leaves in the queue; that counts for more than the LATCH it may bring. -/
def work (s : State) : Nat := 4 * (75 - flushed s) + 2 * s.txq.length + if s.engCnt = 75 then 1 else 0

theorem exists_enabled_of_pending {f : FaultRecord} {s : State} (h : Pending f s) :
    ∃ m ∈ flushSteps, enabled m s = true := by
  by_cases hcnt : s.engCnt = 75
  · exact ⟨.latch, by simp [flushSteps], (enabled_latch s).2 ⟨h.unstalled, hcnt⟩⟩
  · have hle : s.engCnt ≤ 75 := h.inv.engineGood.2
    by_cases hroom : s.txq.length < Config.txqDepth
    · exact ⟨.submit, by simp [flushSteps], (enabled_submit s).2 ⟨h.flushing, hroom⟩⟩
    · have hpos := txqDepth_pos
      have hq : s.txq ≠ [] := by
        rintro hq
        simp [hq] at hroom
        omega
      exact ⟨.emit, by simp [flushSteps],
        (enabled_emit s).2 ⟨handle_valid_of_flushing h.inv h.flushing, h.unstalled, hq, by omega⟩⟩

/-- What a move does to a flush in progress: it ends it, or does some of its work, or leaves its work and its steps
alone, being none of them. -/
theorem pending_cases_of_perform {f : FaultRecord} {m : Move} {s t : State} (hs : Pending f s) (hstall : m ≠ .stall)
    (hrst : m ≠ .rst) (h : perform m s = .next t) :
    Ended f t ∨ (Pending f t ∧ work t < work s) ∨
      (Pending f t ∧ work t = work s ∧ (∀ m' ∈ flushSteps, enabled m' t = enabled m' s) ∧
        (m ∈ flushSteps → enabled m s = false)) := by
  have ht := inv_of_perform hs.inv h
  have hbusy : s.cmdst ≠ .idle := by simp [hs.flushing]
  cases moveEffect_of_perform h with
  | disabled _ hoff => exact .inr (.inr ⟨hs, rfl, fun _ _ => rfl, fun _ => hoff⟩)
  | illegalWord w ws hidle => exact absurd hidle hbusy
  | command ws i t hidle => exact absurd hidle hbusy
  | byteSubmitted p c hflushing hroom hp hc =>
    refine .inr (.inl ⟨⟨ht, hflushing, hs.unstalled, hs.fault⟩, ?_⟩)
    have hlt := flushed_lt { s with txq := s.txq ++ [channelOf p s.scan.ch], scan := c }
    have hnext := flushed_of_scan_advanced hflushing hc (s.txq ++ [channelOf p s.scan.ch])
    simp only [work, hnext, List.length_append, List.length_singleton] at hlt ⊢
    omega
  | lastByteSubmitted => exact .inl ⟨rfl, hs.fault⟩
  | byteEmitted b q hv hunstalled hcnt hq =>
    refine .inr (.inl ⟨⟨ht, hs.flushing, hunstalled, hs.fault⟩, ?_⟩)
    have hsame : flushed { s with txq := q, wire := s.wire ++ [.byte b], engCnt := s.engCnt + 1, dout := .low } =
        flushed s := rfl
    simp only [work, hsame, hq, List.length_cons]
    split <;> split <;> omega
  | frameLatched hunstalled hcnt =>
    refine .inr (.inl ⟨⟨ht, hs.flushing, hunstalled, hs.fault⟩, ?_⟩)
    have hsame : flushed { s with wire := s.wire ++ [.rst], engCnt := 0, dout := .low } = flushed s := rfl
    simp [work, hsame, hcnt]
  | reset => exact absurd rfl hrst
  | stalled => exact absurd rfl hstall
  | toggled | offered | poolFreeSet =>
    refine .inr (.inr ⟨⟨ht, hs.flushing, hs.unstalled, hs.fault⟩, rfl, ?_, by simp [flushSteps]⟩)
    simp only [flushSteps, List.forall_mem_cons]
    exact ⟨rfl, rfl, rfl, by simp⟩

/-! ## Weakly fair schedules -/

section
variable {σ : Nat → Move} {s : State} {f : FaultRecord}

theorem isAgentStep_of_mem_flushSteps {m : Move} (hm : m ∈ flushSteps) : isAgentStep m = true := by
  simp only [flushSteps, List.mem_cons, List.not_mem_nil, or_false] at hm
  rcases hm with rfl | rfl | rfl <;> rfl

variable (hσ : ∀ k, σ k ≠ .stall ∧ σ k ≠ .rst) (hfair : WeaklyFair σ s)
include hσ

/-- Until some work is done or the flush ends, an enabled step of it stays enabled and is not taken. -/
theorem waiting_succ {n : Nat} {t u : State} {m : Move} (hm : m ∈ flushSteps)
    (hno : ∀ k v, performAll (firstMoves σ k) s = .next v → ¬ (Ended f v ∨ (Pending f v ∧ work v < work t)))
    (hu : performAll (firstMoves σ n) s = .next u) (hp : Pending f u) (hw : work u = work t)
    (hen : enabled m u = true) :
    σ n ≠ m ∧ ∃ v, performAll (firstMoves σ (n + 1)) s = .next v ∧ Pending f v ∧ work v = work t ∧
      enabled m v = true := by
  obtain ⟨v, hv⟩ := perform_answers hp.inv (σ n)
  have hrun := (performAll_firstMoves_succ hu).trans hv
  rcases pending_cases_of_perform hp (hσ n).1 (hσ n).2 hv with hend | ⟨hpend, hlt⟩ | ⟨hpend, hsame, hkept, hoff⟩
  · exact absurd (.inl hend) (hno _ v hrun)
  · exact absurd (.inr ⟨hpend, hw ▸ hlt⟩) (hno _ v hrun)
  · refine ⟨?_, v, hrun, hpend, hsame.trans hw, (hkept m hm).trans hen⟩
    rintro rfl
    simp [hoff hm] at hen

include hfair

theorem exists_less_work {n : Nat} {t : State} (ht : performAll (firstMoves σ n) s = .next t) (hp : Pending f t) :
    ∃ k u, performAll (firstMoves σ k) s = .next u ∧ (Ended f u ∨ (Pending f u ∧ work u < work t)) := by
  by_contra hnot
  have hno : ∀ k v, performAll (firstMoves σ k) s = .next v → ¬ (Ended f v ∨ (Pending f v ∧ work v < work t)) :=
    fun k v hv hc => hnot ⟨k, v, hv, hc⟩
  obtain ⟨m, hm, hen⟩ := exists_enabled_of_pending hp
  have hwait : ∀ k ≥ n, ∃ u, performAll (firstMoves σ k) s = .next u ∧ Pending f u ∧ work u = work t ∧
      enabled m u = true := by
    intro k hk
    induction k, hk using Nat.le_induction with
    | base => exact ⟨t, ht, hp, rfl, hen⟩
    | succ k hk ih =>
      obtain ⟨u, hu, hpu, hwu, heu⟩ := ih
      exact (waiting_succ hσ hm hno hu hpu hwu heu).2
  obtain ⟨k, hk, htaken⟩ := hfair m (isAgentStep_of_mem_flushSteps hm) n fun k hk v hv => by
    obtain ⟨u, hu, -, -, heu⟩ := hwait k hk
    cases hu.symm.trans hv
    exact heu
  obtain ⟨u, hu, hpu, hwu, heu⟩ := hwait k hk
  exact (waiting_succ hσ hm hno hu hpu hwu heu).1 htaken

theorem exists_ended {n : Nat} {t : State} (ht : performAll (firstMoves σ n) s = .next t) (hp : Pending f t) :
    ∃ k u, performAll (firstMoves σ k) s = .next u ∧ Ended f u := by
  induction hw : work t using Nat.strong_induction_on generalizing n t with
  | _ w ih =>
    obtain ⟨k, u, hu, hend | ⟨hpu, hlt⟩⟩ := exists_less_work hσ hfair ht hp
    · exact ⟨k, u, hu, hend⟩
    · exact ih _ (hw ▸ hlt) hu hpu rfl

end

/-! ## Rounds of service -/

section
variable {s : State} {f : FaultRecord}

theorem pending_latchFrame (h : Pending f s) :
    Pending f (latchFrame s) ∧ flushed (latchFrame s) = flushed s ∧ (latchFrame s).engCnt < 75 := by
  have hinv := inv_of_perform (m := .latch) h.inv rfl
  obtain ⟨hoff, heq⟩ | ⟨hunstalled, -, heq⟩ := latchFrame_cases s
  · have hle : s.engCnt ≤ 75 := h.inv.engineGood.2
    have hne : s.engCnt ≠ 75 := fun hcnt => hoff ⟨h.unstalled, hcnt⟩
    rw [heq]
    exact ⟨h, rfl, by omega⟩
  · rw [heq] at hinv ⊢
    exact ⟨⟨hinv, h.flushing, hunstalled, h.fault⟩, rfl, by simp⟩

theorem pending_emitByte (h : Pending f s) (hcnt : s.engCnt < 75) :
    Pending f (emitByte s) ∧ flushed (emitByte s) = flushed s ∧ (emitByte s).txq.length < Config.txqDepth := by
  have hinv := inv_of_perform (m := .emit) h.inv rfl
  obtain ⟨hoff, heq⟩ | ⟨-, hunstalled, -, b, q, hq, heq⟩ := emitByte_cases s
  · have hq : s.txq = [] := by
      by_contra hq
      exact hoff ⟨handle_valid_of_flushing h.inv h.flushing, h.unstalled, hq, hcnt⟩
    rw [heq]
    exact ⟨h, rfl, by simpa [hq] using txqDepth_pos⟩
  · have hlen := h.inv.queueGood.1
    rw [hq, List.length_cons] at hlen
    rw [heq] at hinv ⊢
    exact ⟨⟨hinv, h.flushing, hunstalled, h.fault⟩, rfl, hlen⟩

theorem pending_submit (h : Pending f s) (hroom : s.txq.length < Config.txqDepth) :
    ∃ t, perform .submit s = .next t ∧ (Ended f t ∨ (Pending f t ∧ flushed t = flushed s + 1)) := by
  obtain ⟨t, ht⟩ := perform_answers h.inv .submit
  refine ⟨t, ht, ?_⟩
  have hinv := inv_of_perform h.inv ht
  cases moveEffect_of_perform ht with
  | disabled _ hoff => simp [(enabled_submit s).2 ⟨h.flushing, hroom⟩] at hoff
  | byteSubmitted p c hflushing _ _ hc =>
    exact .inr ⟨⟨hinv, hflushing, h.unstalled, h.fault⟩, flushed_of_scan_advanced hflushing hc _⟩
  | lastByteSubmitted => exact .inl ⟨rfl, h.fault⟩

/-- LATCH makes room in the frame, EMIT in the queue, and so SUBMIT finds both. -/
theorem pending_round (h : Pending f s) :
    ∃ t, performAll [.latch, .emit, .submit] s = .next t ∧
      Inv t ∧ (Ended f t ∨ (Pending f t ∧ flushed t = flushed s + 1)) := by
  obtain ⟨h₁, hflushed₁, hcnt⟩ := pending_latchFrame h
  obtain ⟨h₂, hflushed₂, hroom⟩ := pending_emitByte h₁ hcnt
  obtain ⟨t, ht, hcases⟩ := pending_submit h₂ hroom
  rw [hflushed₂, hflushed₁] at hcases
  exact ⟨t, by simp only [performAll, perform] at ht ⊢; rw [ht], inv_of_perform h₂.inv ht, hcases⟩

theorem mem_serveRounds {n : Nat} {m : Move} (hm : m ∈ serveRounds n) : m ≠ .exec ∧ m ≠ .rst := by
  induction n with
  | zero => simp [serveRounds] at hm
  | succ n ih =>
    simp only [serveRounds, List.mem_cons] at hm
    obtain rfl | rfl | rfl | hm := hm
    · decide
    · decide
    · decide
    · exact ih hm

theorem idle_of_moveEffect {m : Move} {t : State} (h : MoveEffect s m t) (hm : m ≠ .exec ∧ m ≠ .rst)
    (hs : s.cmdst = .idle) : t.cmdst = .idle := by
  cases h with
  | illegalWord | command => exact absurd rfl hm.1
  | reset => exact absurd rfl hm.2
  | lastByteSubmitted => rfl
  | _ => exact hs

/-- An ended flush stays ended while no command is taken. -/
theorem perform_keeps_ended {m : Move} (hm : m ≠ .exec ∧ m ≠ .rst) (hs : Inv s ∧ Ended f s) :
    ∃ t, perform m s = .next t ∧ Inv t ∧ Ended f t := by
  obtain ⟨hinv, hidle, hfault⟩ := hs
  obtain ⟨t, ht⟩ := perform_answers hinv m
  have heffect := moveEffect_of_perform ht
  exact ⟨t, ht, inv_of_perform hinv ht, idle_of_moveEffect heffect hm hidle,
    (Writers.fault_unchanged_of_moveEffect heffect hm.1 hm.2).1.trans hfault⟩

theorem serveRounds_ends {n : Nat} (h : Pending f s) (hn : 75 ≤ flushed s + n) :
    ∃ t, performAll (serveRounds n) s = .next t ∧ Ended f t := by
  induction n generalizing s with
  | zero =>
    have hlt := flushed_lt s
    omega
  | succ n ih =>
    obtain ⟨u, hu, hinv, hcases⟩ := pending_round h
    have hrounds : ∀ t, performAll (serveRounds n) u = .next t → performAll (serveRounds (n + 1)) s = .next t := by
      intro t ht
      have happend := performAll_append [.latch, .emit, .submit] (serveRounds n) s
      rw [hu] at happend
      exact happend.trans ht
    rcases hcases with hend | ⟨hp, hnext⟩
    · obtain ⟨t, ht, -, hended⟩ :=
        performAll_answers (P := fun v => Inv v ∧ Ended f v) perform_keeps_ended (fun _ => mem_serveRounds) ⟨hinv, hend⟩
      exact ⟨t, hrounds t ht, hended⟩
    · obtain ⟨t, ht, hended⟩ := ih hp (by omega)
      exact ⟨t, hrounds t ht, hended⟩

end

/-! ## The toggler goes on -/

/-- A good state with the toggler started. -/
def Toggling (s : State) : Prop := Inv s ∧ s.blkStarted = true

theorem perform_keeps_toggling {m : Move} {s : State} (hm : m ≠ .rst) (hs : Toggling s) :
    ∃ t, perform m s = .next t ∧ Toggling t := by
  obtain ⟨t, ht⟩ := perform_answers hs.1 m
  exact ⟨t, ht, inv_of_perform hs.1 ht, (Writers.onlyResetReleasesTheLane m s t ht hm).2 hs.2⟩

theorem toggles_again {s : State} {σ : Nat → Move} (hs : Toggling s) (hσ : ∀ k, σ k ≠ .rst) (hfair : WeaklyFair σ s)
    (n : Nat) :
    ∃ k ≥ n, ∃ t u, performAll (firstMoves σ k) s = .next t ∧ performAll (firstMoves σ (k + 1)) s = .next u ∧
      u.stat ≠ t.stat := by
  have hrun : ∀ k, ∃ t, performAll (firstMoves σ k) s = .next t ∧ Toggling t := fun k =>
    performAll_answers (allowed := (· ≠ .rst)) perform_keeps_toggling (by simp [firstMoves, hσ]) hs
  obtain ⟨k, hk, htoggle⟩ := hfair .toggle rfl n fun k _ t ht => by
    obtain ⟨u, hu, htoggling⟩ := hrun k
    cases hu.symm.trans ht
    exact htoggling.2
  obtain ⟨t, ht, hinv, hb⟩ := hrun k
  obtain ⟨u, hu, hne⟩ := toggle_flips_stat hb
  refine ⟨k, hk, t, u, ht, (performAll_firstMoves_succ ht).trans (htoggle ▸ hu), ?_⟩
  rwa [(hinv.togglerGood.2.2 hb).1]

/-- Settles O53: the work left bounds a flush, by rounds and by fairness; and a started toggler is enabled for ever. -/
theorem flushCompletesWhenServed : Obligations.FlushCompletesWhenServed :=
  ⟨fun s hs hflushing hstall => serveRounds_ends (f := s.fault) ⟨hs, hflushing, hstall, rfl⟩ (Nat.le_add_left 75 _),
    fun s _ hs hflushing hstall hσ hfair =>
      exists_ended (f := s.fault) (n := 0) hσ hfair rfl ⟨hs, hflushing, hstall, rfl⟩,
    fun _ _ hs hb hσ hfair n => toggles_again ⟨hs, hb⟩ hσ hfair n⟩

end Sys2Proof.Progress

/-! SUPPORT. The pseudo-instructions of the host (44_frame_renderer.md): SETXY as one write of the frame buffer, and
RENDER as the 25 writes it expands to. -/

namespace Sys2Proof.Renderer

open Sys2Proof Sys2Proof.Machine Sys2Proof.Mapper

/-! ## SETXY -/

theorem issueCommand_of_idle {s : State} (hs : s.cmdst = .idle) (i : Instr) :
    issueCommand i s = exec i (acceptCommand s.env.cmds s) := if_pos hs

/-- The index MAP answers fits the 5 bits SET takes it from. -/
theorem toNat_mapIndex_field (row col : Nat) :
    ((BitVec.ofNat 24 (mapIndex row col)).extractLsb' 0 5).toNat = mapIndex row col := by
  have hlt := mapIndex_lt (row := row) (col := col)
  rw [BitVec.extractLsb'_toNat, BitVec.toNat_ofNat, Nat.shiftRight_zero]
  omega

section
variable {s : State} {row col : BitVec 8} (hs : s.cmdst = .idle)
include hs

theorem setWithResponse_of_index (hv : s.handle.valid = true) {k : BitVec 24} (hk : s.env.rsp = some k)
    (hidx : (k.extractLsb' 0 5).toNat < 25) (r g b : Byte) :
    setWithResponse r g b s = .next { s with
      fb := Memory.write s.fb (k.extractLsb' 0 5).toNat ⟨r, g, b⟩, env := { s.env with rsp := none } } := by
  rw [setWithResponse, hk]
  exact (issueCommand_of_idle hs _).trans (Commands.execSet_of_index (s := acceptCommand s.env.cmds s) hv hidx r g b)

/-- On the matrix SETXY writes the element the mapper names and leaves its index in RES. -/
theorem runSetxy_of_position (hv : s.handle.valid = true) (hrow : row.toNat < 5) (hcol : col.toNat < 5) (r g b : Byte) :
    runSetxy row col r g b s = .next { s with
      fb := Memory.write s.fb (mapIndex row.toNat col.toNat) ⟨r, g, b⟩
      res := BitVec.ofNat 24 (mapIndex row.toNat col.toNat), env := { s.env with rsp := none } } := by
  have hmap : issueCommand (.map row col) s =
      .next (respond (BitVec.ofNat 24 (mapIndex row.toNat col.toNat)) (acceptCommand s.env.cmds s)) :=
    (issueCommand_of_idle hs _).trans (Commands.execMap_of_position hrow hcol)
  have hidx := toNat_mapIndex_field row.toNat col.toNat
  have hset := setWithResponse_of_index
    (s := respond (BitVec.ofNat 24 (mapIndex row.toNat col.toNat)) (acceptCommand s.env.cmds s)) hs hv rfl
    (hidx.trans_lt mapIndex_lt) r g b
  rw [hidx] at hset
  rw [runSetxy, if_pos hs, hmap]
  exact hset

/-- Off the matrix the MAP raises, which closes the port and leaves no response for a SET. -/
theorem runSetxy_of_off_the_matrix (hoff : 4 < row.toNat ∨ 4 < col.toNat) (r g b : Byte) :
    runSetxy row col r g b s =
      .next (raise .coordinateOutOfRange (encode (.map row col)) (acceptCommand s.env.cmds s)) := by
  have hmap : issueCommand (.map row col) s =
      .next (raise .coordinateOutOfRange (encode (.map row col)) (acceptCommand s.env.cmds s)) :=
    (issueCommand_of_idle hs _).trans (Exceptions.execMap_of_off_the_matrix hoff _)
  rw [runSetxy, if_pos hs, hmap]
  rfl

end

/-- Settles O58: on the matrix SETXY is one write of FB; off it the raise of its MAP. -/
theorem setxyWritesTheCell : Obligations.SetxyWritesTheCell := by
  refine fun s row col r g b hs hv => ⟨fun ⟨hrow, hcol⟩ => ?_, fun hoff => ?_⟩
  · exact ⟨_, runSetxy_of_position hs hv hrow hcol r g b, hs, Memory.read_write_same _ _ _,
      fun j hj => Memory.read_write_other _ _ j _ hj, rfl⟩
  · exact ⟨_, runSetxy_of_off_the_matrix hs hoff r g b, rfl, rfl, rfl⟩

/-! ## RENDER -/

/-- The buffer `m` once the cells `cs` of digit `d` have been written, one after another. -/
def drawn (bitmap : Nat → Nat → Nat → Nat → Byte) (d : Nat) (cs : List (Nat × Nat)) (m : Memory) : Memory :=
  cs.foldl (fun m rc => Memory.write m (mapIndex rc.1 rc.2) (bitmapPixel bitmap d rc.1 rc.2)) m

section
variable {bitmap : Nat → Nat → Nat → Nat → Byte} {d : Nat}

/-- A cell's write leaves the cell's pixel at its index; so an index whose cell is drawn, or that held its pixel before,
holds it after all. -/
theorem read_drawn {cs : List (Nat × Nat)} {m : Memory} {k : Nat} (hcs : ∀ rc ∈ cs, rc.1 < 5 ∧ rc.2 < 5) (hk : k < 25)
    (h : unmapIndex k ∈ cs ∨ Memory.read m k = some (bitmapPixel bitmap d (unmapIndex k).1 (unmapIndex k).2)) :
    Memory.read (drawn bitmap d cs m) k = some (bitmapPixel bitmap d (unmapIndex k).1 (unmapIndex k).2) := by
  induction cs generalizing m with
  | nil => simpa [drawn] using h
  | cons rc cs ih =>
    obtain ⟨⟨hrow, hcol⟩, hcs⟩ := List.forall_mem_cons.1 hcs
    refine ih hcs ?_
    by_cases hrc : mapIndex rc.1 rc.2 = k
    · subst hrc
      exact .inr (by rw [unmapIndex_mapIndex hrow hcol, Memory.read_write_same])
    · rw [Memory.read_write_other _ _ _ _ (Ne.symm hrc)]
      refine h.imp (fun hmem => (List.mem_cons.1 hmem).resolve_left ?_) id
      rintro rfl
      exact hrc (mapIndex_unmapIndex hk)

/-- A cell of the matrix is drawn by its SETXY. -/
theorem runHostOp_cellOp {s : State} {rc : Nat × Nat} (hs : s.cmdst = .idle) (hv : s.handle.valid = true)
    (hrow : rc.1 < 5) (hcol : rc.2 < 5) :
    ∃ u, runHostOp (cellOp bitmap d rc) s = .next u ∧ u.cmdst = .idle ∧ u.handle.valid = true ∧ u.fault = s.fault ∧
      u.fb = Memory.write s.fb (mapIndex rc.1 rc.2) (bitmapPixel bitmap d rc.1 rc.2) := by
  have hrow' : (BitVec.ofNat 8 rc.1).toNat = rc.1 := by rw [BitVec.toNat_ofNat]; omega
  have hcol' : (BitVec.ofNat 8 rc.2).toNat = rc.2 := by rw [BitVec.toNat_ofNat]; omega
  refine ⟨_, runSetxy_of_position hs hv (hrow'.symm ▸ hrow) (hcol'.symm ▸ hcol) _ _ _, hs, hv, rfl, ?_⟩
  rw [hrow', hcol']
  rfl

theorem runHostOps_cellOps {cs : List (Nat × Nat)} {s : State} (hcs : ∀ rc ∈ cs, rc.1 < 5 ∧ rc.2 < 5)
    (hs : s.cmdst = .idle) (hv : s.handle.valid = true) (ops : List HostOp) :
    ∃ u, runHostOps (cs.map (cellOp bitmap d) ++ ops) s = runHostOps ops u ∧ u.cmdst = .idle ∧
      u.handle.valid = true ∧ u.fault = s.fault ∧ u.fb = drawn bitmap d cs s.fb := by
  induction cs generalizing s with
  | nil => exact ⟨s, rfl, hs, hv, rfl, rfl⟩
  | cons rc cs ih =>
    obtain ⟨⟨hrow, hcol⟩, hcs⟩ := List.forall_mem_cons.1 hcs
    obtain ⟨t, hop, htidle, htv, htfault, htfb⟩ := runHostOp_cellOp (bitmap := bitmap) (d := d) hs hv hrow hcol
    obtain ⟨u, hrun, huidle, huv, hufault, hufb⟩ := ih hcs htidle htv
    refine ⟨u, ?_, huidle, huv, hufault.trans htfault, by rw [hufb, htfb]; rfl⟩
    rw [List.map_cons, List.cons_append, runHostOps, hop]
    exact hrun

end

theorem runHostOps_write {s : State} (hs : s.cmdst = .idle) (hv : s.handle.valid = true) :
    runHostOps [.command .write] s = .next (beginFlush (acceptCommand s.env.cmds s)) := by
  have hwrite : runHostOp (.command .write) s = .next (beginFlush (acceptCommand s.env.cmds s)) :=
    (issueCommand_of_idle hs _).trans (Commands.execWrite_of_initialised hv)
  rw [runHostOps, hwrite]
  rfl

/-- Settles O59, by induction on the cells drawn: the grid holds the cell of every index, and WRITE reads but does not
write what has been drawn. -/
theorem renderDrawsTheBitmap : Obligations.RenderDrawsTheBitmap := by
  refine fun bitmap d => ⟨fun hd => ⟨_, if_pos hd, fun s hs hv => ?_⟩, fun hd => if_neg (Nat.not_le.2 hd)⟩
  obtain ⟨u, hrun, hidle, hvalid, hfault, hfb⟩ :=
    runHostOps_cellOps (bitmap := bitmap) (d := d) (fun _ => mem_cells.1) hs hv [.command .write]
  refine ⟨_, hrun.trans (runHostOps_write hidle hvalid), rfl, hfault, fun k hk => ?_⟩
  have hcell : unmapIndex k ∈ cells := mem_cells.2 ⟨unmapIndex_fst_lt, unmapIndex_snd_lt⟩
  exact (congrArg (Memory.read · k) hfb).trans (read_drawn (fun _ => mem_cells.1) hk (.inl hcell))

end Sys2Proof.Renderer

/-! SUPPORT. What stands on the ports and the pins (10_state.md R14, R15, R23; 20_memory.md R36; 42_transport.md R76),
what the chain of chips shows of it (R82), and the text of a program (30_encoding.md R54, R55). -/

namespace Sys2Proof.Signals

open Sys2Proof Sys2Proof.Machine

/-! ## Fields side by side -/

theorem extract_four_fields {k l m n : Nat} (w : BitVec k) (x : BitVec l) (y : BitVec m) (z : BitVec n) :
    (w ++ x ++ y ++ z).extractLsb' (l + m + n) k = w ∧ (w ++ x ++ y ++ z).extractLsb' (m + n) l = x ∧
      (w ++ x ++ y ++ z).extractLsb' n m = y ∧ (w ++ x ++ y ++ z).extractLsb' 0 n = z := by
  refine ⟨?_, ?_, ?_, BitVec.extractLsb'_append_eq_right⟩
  · simp [BitVec.extractLsb'_append_eq_of_le]
  · simp [BitVec.extractLsb'_append_eq_of_le, BitVec.extractLsb'_append_eq_right]
  · simp [BitVec.extractLsb'_append_eq_of_le, BitVec.extractLsb'_append_eq_right]

/-- Settles O57: FAULT and HANDLE are their fields side by side, and the invariant ties FAULT.valid to Halted. -/
theorem statusPortsShowTheState : Obligations.StatusPortsShowTheState := by
  refine ⟨fun s => ?_, fun s hs => hs.sequencingGood.1.symm⟩
  obtain ⟨hvalid, hcause, hsub, hcmd⟩ :=
    extract_four_fields (BitVec.ofBool s.fault.valid) s.fault.cause s.fault.sub s.fault.cmd
  obtain ⟨hclaimed, hpool, hlane, hpin⟩ :=
    extract_four_fields (BitVec.ofBool s.handle.valid) s.handle.pool s.handle.lane s.handle.pin
  exact ⟨hvalid, hcause, hsub, hcmd, hclaimed, hpool, hlane, hpin, by simp [cmdReady]⟩

/-! ## Bits and symbols -/

/-- Settles O54: the two orders list the bit numbers down and up. -/
theorem bitsGoOutInBitOrder : Obligations.BitsGoOutInBitOrder := by
  intro b k hk
  have hdown : ∀ k < 8, [7, 6, 5, 4, 3, 2, 1, 0][k]? = some (7 - k) := by decide
  have hup : ∀ k < 8, [0, 1, 2, 3, 4, 5, 6, 7][k]? = some k := by decide
  simp only [byteBits, List.getElem?_map, hdown k hk, hup k hk, Option.map_some, and_self]

/-- Settles O55: the long pulse is the short one and a gap, and the gap is what the low time of a 0 has over that of a
1. -/
theorem symbolsShareOnePeriod : Obligations.SymbolsShareOnePeriod := by
  refine ⟨Config.t0h, Config.t0l, Config.t1h, Config.t1l, rfl, rfl, Nat.succ_pos _, ?_, Nat.succ_pos _, ?_⟩
  · exact Nat.lt_add_of_pos_right (Nat.succ_pos _)
  · simp only [Config.t0l, Config.t1h]
    omega

/-! ## The chain (42_transport.md R82) -/

/-- The chain has kept the bytes since the last RST, as many as the count of the frame in progress. -/
theorem length_kept {es : List WireEvent} {kept : List Byte} {shown : List Pixel} {n : Nat}
    (h : framedCount kept.length es = some n) : (es.foldl chainStep (kept, shown)).1.length = n := by
  induction es generalizing kept shown with
  | nil => simpa [framedCount] using h
  | cons e es ih =>
    cases e with
    | byte b =>
      simp only [framedCount, Option.ite_none_right_eq_some] at h
      exact ih (by simpa using h.2)
    | rst =>
      simp only [framedCount, Option.ite_none_right_eq_some] at h
      exact ih h.2

theorem foldl_chainStep_bytes (bs kept : List Byte) (shown : List Pixel) :
    (bs.map WireEvent.byte).foldl chainStep (kept, shown) = (kept ++ bs, shown) := by
  induction bs generalizing kept with
  | nil => simp
  | cons b bs ih => simp [chainStep, ih]

/-- The chips take the bytes of a frame as the pixels they were sent from. -/
theorem pixelsOf_wireBytes (px : Nat → Pixel) (ks : List Nat) :
    pixelsOf (ks.flatMap fun k => [(px k).g, (px k).r, (px k).b]) = ks.map px := by
  induction ks with
  | nil => rfl
  | cons k ks ih => simp [pixelsOf, ih]

/-- Settles O56: after whole frames the chain has kept nothing, so it keeps this frame whole and shows it at the RST. -/
theorem chainShowsTheLastFrame : Obligations.ChainShowsTheLastFrame := by
  intro es px hes
  rcases hchain : es.foldl chainStep ([], []) with ⟨kept, shown⟩
  have hkept : kept = [] := by
    have hlen := length_kept (kept := []) (shown := []) hes
    simpa [hchain] using hlen
  have hbytes : (List.range 25).flatMap (fun k => [.byte (px k).g, .byte (px k).r, .byte (px k).b]) =
      ((List.range 25).flatMap fun k => [(px k).g, (px k).r, (px k).b]).map WireEvent.byte := by
    rw [List.map_flatMap]
    rfl
  rw [chainShows, List.foldl_append, List.foldl_append, hchain, hbytes, foldl_chainStep_bytes, hkept]
  simp only [List.foldl_cons, List.foldl_nil, chainStep, List.nil_append, pixelsOf_wireBytes]
  exact List.take_of_length_le (by simp [Config.elements])

/-! ## The text of a program -/

/-- Settles O60: closed lines, which name the bitmap in no word they give. -/
theorem specLinesAssemble : Obligations.SpecLinesAssemble := by
  intro bitmap
  rfl

end Sys2Proof.Signals
